-- ==== Sys2Proof/Word.lean ====
section
/-! DEFINITION. The word types of LCDNIB: spec/00_scope.md R7 (fixed sizes), R8 (all values unsigned, bit 0 least significant). -/

namespace Sys2Proof

/-- A byte, 8 bits (R7). -/
abbrev Byte := BitVec 8

/-- A nibble, the 4-bit unit of transfer (R7, R12). -/
abbrev Nibble := BitVec 4

/-- A command word, 11 bits (30_encoding.md R80). -/
abbrev CmdWord := BitVec 11

/-- The micro-operation index, 7 bits (10_state.md R24). -/
abbrev Upc := BitVec 7

end Sys2Proof
end

