-- ==== Sys2Proof/Config.lean ====
section
/-! DEFINITION. The static parameters of LCDNIB, one configuration record: spec/00_scope.md R5, R6.
Well-formedness (R6) is `Config.wf` in WellFormed.lean; the derived levels `EN_IDLE`, `EN_ACT` are in Machine/Operands.lean.
No free value is declared: the spec leaves no value inside the block open (assumption log 17, 21). -/

namespace Sys2Proof

/-- `EN_STRATEGY` (R5): how the EN pulse is made. -/
inductive EnStrategy
  | directToggle
  | timerPulse
  deriving DecidableEq, Repr

/-- `EN_ACTIVE` (R5; 40_pulse_controller.md R112): the polarity of the EN pulse. -/
inductive EnActive
  | high
  | low
  deriving DecidableEq, Repr

/-- The configuration record of R5, with `PW_MIN` of the external chip (R6). Durations are microseconds. -/
structure Config where
  pinRs : Nat
  pinEn : Nat
  pinD4 : Nat
  pinD5 : Nat
  pinD6 : Nat
  pinD7 : Nat
  dispctl : Byte
  enStrategy : EnStrategy
  enActive : EnActive
  tEnSetup : Nat
  tEnWidth : Nat
  tEnHold : Nat
  tSettle : Nat
  tReset : Nat
  tStep : Nat
  tClear : Nat
  tHome : Nat
  pwMin : Nat
  strictInit : Bool
  deriving DecidableEq, Repr

/-- What is given of a configuration: the parameters without a default always, each other one or not (R5). -/
structure GivenConfig where
  pinRs : Nat
  pinEn : Nat
  pinD4 : Nat
  pinD5 : Nat
  pinD6 : Nat
  pinD7 : Nat
  strictInit : Bool
  dispctl : Option Byte := none
  enStrategy : Option EnStrategy := none
  enActive : Option EnActive := none
  tEnSetup : Option Nat := none
  tEnWidth : Option Nat := none
  tEnHold : Option Nat := none
  tSettle : Option Nat := none
  tReset : Option Nat := none
  tStep : Option Nat := none
  tClear : Option Nat := none
  tHome : Option Nat := none
  pwMin : Option Nat := none
  deriving DecidableEq, Repr

/-- `T_SETTLE`, 1000 if not given (R5). -/
def GivenConfig.settle (g : GivenConfig) : Nat := g.tSettle.getD 1000

/-- The configuration, every parameter not given at its default of R5 and R6: the three EN times at `T_SETTLE`. -/
def GivenConfig.config (g : GivenConfig) : Config where
  pinRs := g.pinRs
  pinEn := g.pinEn
  pinD4 := g.pinD4
  pinD5 := g.pinD5
  pinD6 := g.pinD6
  pinD7 := g.pinD7
  dispctl := g.dispctl.getD 0x0C
  enStrategy := g.enStrategy.getD .directToggle
  enActive := g.enActive.getD .high
  tEnSetup := g.tEnSetup.getD g.settle
  tEnWidth := g.tEnWidth.getD g.settle
  tEnHold := g.tEnHold.getD g.settle
  tSettle := g.settle
  tReset := g.tReset.getD 5000
  tStep := g.tStep.getD 5000
  tClear := g.tClear.getD 10000
  tHome := g.tHome.getD 10000
  pwMin := g.pwMin.getD 1
  strictInit := g.strictInit

/-- Nothing given but what must be. DESIGN CHOICE (log 2): the six pin identifiers and `STRICT_INIT`, which R5 gives no default. -/
def GivenConfig.least : GivenConfig where
  pinRs := 0
  pinEn := 1
  pinD4 := 2
  pinD5 := 3
  pinD6 := 4
  pinD7 := 5
  strictInit := false

/-- The defaults of R5 and R6 (log 2). -/
def Config.default : Config := GivenConfig.least.config

end Sys2Proof
end

