-- ==== Sys2Proof/Syntax.lean ====
section
/-! DEFINITION. The instructions of LCDNIB, one constructor per row of spec/opcode_table.json
(30_encoding.md R81, R90, R91). -/

namespace Sys2Proof

/-- `mode` of a byte send (30_encoding.md R81): `Instruction` or `Data`. -/
inductive SendMode
  | instruction
  | data
  deriving DecidableEq, Repr

/-- The nine rows of the opcode table: five commands with a word, two internal operations and two pseudo-instructions without. -/
inductive Instr
  /-- INIT, 42_init_sequencer.md R145 to R153. -/
  | init
  /-- CLEAR, 43_display_commands.md R165. -/
  | clear
  /-- SETCUR, 43_display_commands.md R166: `line` is one bit. -/
  | setcur (line : BitVec 1)
  /-- SENDI, 41_byte_transmission.md R131. -/
  | sendi (value : Byte)
  /-- SENDD, 41_byte_transmission.md R132. -/
  | sendd (value : Byte)
  /-- SEND_BYTE, internal, 41_byte_transmission.md R130. -/
  | sendByte (v : Byte) (m : SendMode)
  /-- SEND_NIBBLE, internal, 40_pulse_controller.md R110, R111. -/
  | sendNibble (n : Nibble)
  /-- WRLINE, pseudo, 44_text_writer.md R180: characters as code units and a line number, checked by `Instr.wf`. -/
  | wrline (text : List Nat) (line : Nat)
  /-- SENDB, pseudo, 30_encoding.md R90. -/
  | sendb (value : Byte) (mode : SendMode)
  deriving DecidableEq, Repr

end Sys2Proof
end

