-- ==== Sys2Proof/WellFormed.lean ====
section
/-! DEFINITION. Well-formed configurations (spec/00_scope.md R5, R6) and well-formed instructions
(44_text_writer.md R180, R182). -/

namespace Sys2Proof

/-- R6: the six pin identifiers are pairwise distinct. -/
def Config.pinsDistinct (c : Config) : Bool :=
  decide [c.pinRs, c.pinEn, c.pinD4, c.pinD5, c.pinD6, c.pinD7].Nodup

/-- R6: `DISPCTL` is one of 0x0C, 0x0D, 0x0E, 0x0F. -/
def Config.dispctlLegal (c : Config) : Bool :=
  c.dispctl == 0x0C || c.dispctl == 0x0D || c.dispctl == 0x0E || c.dispctl == 0x0F

/-- R6: the floors of the durations; R5 gives `T_SETTLE` the same floor as the three EN times (log 3). -/
def Config.durationsLegal (c : Config) : Bool :=
  decide (c.pwMin ≤ c.tEnSetup) && decide (c.pwMin ≤ c.tEnWidth) && decide (c.pwMin ≤ c.tEnHold)
    && decide (c.pwMin ≤ c.tSettle) && decide (5000 ≤ c.tReset) && decide (1600 ≤ c.tClear)

/-- R6: a well-formed configuration. -/
def Config.wf (c : Config) : Bool :=
  c.pinsDistinct && c.dispctlLegal && c.durationsLegal

/-- Every operand but WRLINE's has the width of its encoding by its type. A WRLINE has an expansion only if its line is 0
or 1 (R180) and each character fits 8 bits (R182). -/
def Instr.wf : Instr → Bool
  | .init => true
  | .clear => true
  | .setcur _ => true
  | .sendi _ => true
  | .sendd _ => true
  | .sendByte _ _ => true
  | .sendNibble _ => true
  | .wrline text line => decide (line < 2) && text.all (fun c => decide (c < 256))
  | .sendb _ _ => true

end Sys2Proof
end

