-- ==== Sys2Proof/Decode.lean ====
section
/-! DEFINITION. Decoding a command word, and encoding an instruction as its words: spec/30_encoding.md R80 to R84, R87, R89, R90. -/

namespace Sys2Proof

/-- `op(cw) = cw[10:8]` (R80). -/
def opField (cw : CmdWord) : BitVec 3 := cw.extractLsb' 8 3

/-- `arg(cw) = cw[7:0]` (R80). -/
def argField (cw : CmdWord) : Byte := cw.extractLsb' 0 8

/-- Why a word is reserved, one name for each case of R83. -/
inductive DecodeError
  /-- INIT with `arg != 0`. -/
  | initArg
  /-- CLEAR with `arg != 0`. -/
  | clearArg
  /-- SETCUR with `arg[7:1] != 0`. -/
  | setcurArg
  /-- `op` is 0b011, 0b110 or 0b111. -/
  | reservedOp
  deriving DecidableEq, Repr

/-- R81's opcode map, total on every 11-bit word; R83's words are rejected by name. -/
def decode (cw : CmdWord) : Except DecodeError Instr :=
  let arg := argField cw
  if opField cw = 0b000 then (if arg = 0 then .ok .init else .error .initArg)
  else if opField cw = 0b001 then (if arg = 0 then .ok .clear else .error .clearArg)
  else if opField cw = 0b010 then
    (if arg.extractLsb' 1 7 = 0 then .ok (.setcur (arg.extractLsb' 0 1)) else .error .setcurArg)
  else if opField cw = 0b100 then .ok (.sendi arg)
  else if opField cw = 0b101 then .ok (.sendd arg)
  else .error .reservedOp

/-- `legal(cw)` written from R81's list of words, not from the decoder. -/
def legal (cw : CmdWord) : Bool :=
  cw == 0x000 || cw == 0x100 || cw == 0x200 || cw == 0x201
    || (decide (0x400 ≤ cw.toNat) && decide (cw.toNat ≤ 0x4FF))
    || (decide (0x500 ≤ cw.toNat) && decide (cw.toNat ≤ 0x5FF))

/-- SETCUR's word `0x200 | line` (R89). -/
def setcurWord (line : BitVec 1) : CmdWord := 0x200 ||| line.setWidth 11

/-- The word of a byte send (R81): `op = 0b10m`, so `0x400 | value` for `Instruction` and `0x500 | value` for `Data`. -/
def sendWord (mode : SendMode) (value : Byte) : CmdWord :=
  match mode with
  | .instruction => 0x400 ||| value.setWidth 11
  | .data => 0x500 ||| value.setWidth 11

/-- `code(c)` (44_text_writer.md R182): the identity on 8-bit code units. -/
def charCode (c : Nat) : Byte := BitVec.ofNat 8 c

/-- The words of an instruction, in the order the host presents them (R89, R90). Internal operations have none (R91), and an
ill-formed WRLINE has no expansion (44_text_writer.md R180, R182). -/
def encode (i : Instr) : List CmdWord :=
  match i with
  | .init => [0x000]
  | .clear => [0x100]
  | .setcur line => [setcurWord line]
  | .sendi value => [sendWord .instruction value]
  | .sendd value => [sendWord .data value]
  | .sendByte _ _ => []
  | .sendNibble _ => []
  | .wrline text line =>
      if (Instr.wrline text line).wf then
        setcurWord (BitVec.ofNat 1 line) :: text.map (fun c => sendWord .data (charCode c))
      else []
  | .sendb value mode => [sendWord mode value]

/-- The core commands an instruction abbreviates (R90; 44_text_writer.md R180): itself for a command, none for an internal
operation. -/
def Instr.commands (i : Instr) : List Instr :=
  match i with
  | .init => [.init]
  | .clear => [.clear]
  | .setcur line => [.setcur line]
  | .sendi value => [.sendi value]
  | .sendd value => [.sendd value]
  | .sendByte _ _ => []
  | .sendNibble _ => []
  | .wrline text line => .setcur (BitVec.ofNat 1 line) :: text.map (fun c => .sendd (charCode c))
  | .sendb value .instruction => [.sendi value]
  | .sendb value .data => [.sendd value]

/-- The instruction the decoder reads from a table word: the 11 bits of `cmd_word`, numbered as R80 numbers them. A number with
a bit above bit 10 is no command word (log 20). -/
def decodeTableWord (_nbits w : Nat) : Option Instr :=
  if w < 2048 then
    match decode (BitVec.ofNat 11 w) with
    | .ok i => some i
    | .error _ => none
  else none

end Sys2Proof
end

