-- ==== Sys2Proof/Machine/Types.lean ====
section
/-! DEFINITION. The data types State is made of: pins, micro-operations (spec/20_memory.md R58), the trace (R59), the latched
stream (R61), the lifecycle (10_state.md R26), answers (60_exceptions.md R191) and ports (10_state.md R31). -/

namespace Sys2Proof.Machine

/-- The six roles of the Pin Assignment (00_scope.md R5, 10_state.md R21). -/
inductive Pin
  | rs
  | en
  | d4
  | d5
  | d6
  | d7
  deriving DecidableEq, Repr

/-- One bit for each role: the latches `x[p]` (R21) and the output enables `oe[p]` (R22) are each one of these. -/
structure Lines where
  rs : Bool
  en : Bool
  d7 : Bool
  d6 : Bool
  d5 : Bool
  d4 : Bool
  deriving DecidableEq, Repr

/-- The bit of role `p`. -/
def Lines.get (l : Lines) (p : Pin) : Bool :=
  match p with
  | .rs => l.rs
  | .en => l.en
  | .d4 => l.d4
  | .d5 => l.d5
  | .d6 => l.d6
  | .d7 => l.d7

/-- The lines with the bit of role `p` set to `b`. -/
def Lines.set (l : Lines) (p : Pin) (b : Bool) : Lines :=
  match p with
  | .rs => { l with rs := b }
  | .en => { l with en := b }
  | .d4 => { l with d4 := b }
  | .d5 => { l with d5 := b }
  | .d6 => { l with d6 := b }
  | .d7 => { l with d7 := b }

/-- `D`, the four data bits read together with D7 most significant (10_state.md R21). -/
def Lines.data (l : Lines) : Nibble :=
  BitVec.ofBool l.d7 ++ BitVec.ofBool l.d6 ++ BitVec.ofBool l.d5 ++ BitVec.ofBool l.d4

/-- `D <- n` (00_scope.md R9, 20_memory.md R51): bit 3 to D7 down to bit 0 to D4, in one step. -/
def Lines.setData (l : Lines) (n : Nibble) : Lines :=
  { l with d7 := n[3], d6 := n[2], d5 := n[1], d4 := n[0] }

/-- Every bit is 1 ("all six `oe` bits are 1", 20_memory.md R61). -/
def Lines.allOn (l : Lines) : Bool :=
  l.rs && l.en && l.d7 && l.d6 && l.d5 && l.d4

/-- No bit is 1. -/
def Lines.off : Lines := ⟨false, false, false, false, false, false⟩

/-- All six bits are 1. -/
def Lines.on : Lines := ⟨true, true, true, true, true, true⟩

/-- The six micro-operations (20_memory.md R58; an inductive type by 30_encoding.md R92). Durations are microseconds. -/
inductive Uop
  | cfgOut (p : Pin)
  | rs (b : Bool)
  | data (n : Nibble)
  | en (b : Bool)
  | delay (t : Nat)
  | pulse (t : Nat)
  deriving DecidableEq, Repr

/-- DELAY and PULSE start the timing capability (10_state.md R35). -/
def Uop.timed (u : Uop) : Bool :=
  match u with
  | .cfgOut _ => false
  | .rs _ => false
  | .data _ => false
  | .en _ => false
  | .delay _ => true
  | .pulse _ => true

/-- An item of the trace (20_memory.md R59): a micro-operation performed, or the RESET marker. -/
inductive TraceItem
  | op (u : Uop)
  | reset
  deriving DecidableEq, Repr

/-- An item of the latched stream (20_memory.md R61). -/
inductive Latched
  | nibble (rs : Bool) (n : Nibble)
  | undriven
  deriving DecidableEq, Repr

/-- The lifecycle (10_state.md R26). -/
inductive Life
  | uninitialized
  | initializing
  | ready
  deriving DecidableEq, Repr

/-- What `cmd_resp` answers (60_exceptions.md R191). -/
inductive Resp
  | accept
  | notInitialized
  | illegalCommand
  deriving DecidableEq, Repr

/-- The levels of the input ports `rst`, `cmd_valid`, `tmr_done` in one step (10_state.md R31). `cmd_word` is the head of
`State.host`. -/
structure Inputs where
  rst : Bool
  cmdValid : Bool
  tmrDone : Bool
  deriving DecidableEq, Repr

/-- No input port asserted. -/
def Inputs.quiet : Inputs := ⟨false, false, false⟩

/-- The timing capability alone acts. -/
def Inputs.timer : Inputs := ⟨false, false, true⟩

/-- The host alone acts. -/
def Inputs.present : Inputs := ⟨false, true, false⟩

/-- Reset strikes. -/
def Inputs.reset : Inputs := ⟨true, false, false⟩

/-- What the block asks of the timing capability in the step in which `tmr_start = 1` (10_state.md R31): `tmr_pulse` and
`tmr_dur`. -/
structure TimerStart where
  pulse : Bool
  dur : Nat
  deriving DecidableEq, Repr

/-- The step-wide output ports of one step (10_state.md R31): `cmd_resp`, none where no command was taken; `tmr_start`, which is 1
exactly where `timer` is not none, with `tmr_pulse` and `tmr_dur`. DESIGN CHOICE (log 9): `cmd_resp` in a step that takes no
command, and `tmr_pulse` and `tmr_dur` in a step with `tmr_start = 0`, have no value. -/
structure Outs where
  cmdResp : Option Resp
  timer : Option TimerStart
  deriving DecidableEq, Repr

/-- Nothing answered, `tmr_start = 0`. DESIGN CHOICE (log 9): R31 gives `cmd_resp`, `tmr_pulse` and `tmr_dur` no meaning in such a
step, and the model gives them no value. -/
def Outs.quiet : Outs := ⟨none, none⟩

/-- How a run of a program stands (70_reset_and_hazards.md R238). -/
inductive RunStatus
  /-- Words are still to be presented, or a command is in flight. -/
  | running
  /-- Every word was presented and the last one retired or was refused. -/
  | over
  /-- A reset cut the run before it was over. -/
  | aborted
  /-- The machine stopped, which 60_exceptions.md R190 excludes under a well-formed configuration (log 3, 8). -/
  | stopped
  deriving DecidableEq, Repr

/-- `kind` of an initialization-table entry (30_encoding.md R85). -/
inductive EntryKind
  | nib
  | byte
  deriving DecidableEq, Repr

/-- `dsel` of an initialization-table entry (30_encoding.md R85). -/
inductive DelaySel
  | step
  | reset
  | clear
  | home
  deriving DecidableEq, Repr

/-- An entry of the initialization table: the triple of 30_encoding.md R85. -/
structure InitEntry where
  kind : EntryKind
  value : Byte
  dsel : DelaySel
  deriving DecidableEq, Repr

end Sys2Proof.Machine
end

