-- ==== Sys2Proof/Machine/Operands.lean ====
section
/-! DEFINITION. How operands and constants are assembled: spec/30_encoding.md R82, R85 to R87, R93; 00_scope.md R5, R8. -/

namespace Sys2Proof.Machine

/-- The high nibble `v[7:4]` (R82). -/
def hiNibble (v : Byte) : Nibble := v.extractLsb' 4 4

/-- The low nibble `v[3:0]` (R82). -/
def loNibble (v : Byte) : Nibble := v.extractLsb' 0 4

/-- `EN_IDLE` (00_scope.md R5): 0 when `EN_ACTIVE = High`, 1 when `Low`. -/
def enIdle (c : Config) : Bool :=
  match c.enActive with
  | .high => false
  | .low => true

/-- `EN_ACT` (00_scope.md R5): 1 when `EN_ACTIVE = High`, 0 when `Low`. -/
def enAct (c : Config) : Bool :=
  match c.enActive with
  | .high => true
  | .low => false

/-- The RS level of a mode (R81): low for `Instruction`, high for `Data`. -/
def rsLevel (m : SendMode) : Bool :=
  match m with
  | .instruction => false
  | .data => true

/-- The cursor byte `0x80 | (line << 6)` (R87). -/
def cursorByte (line : BitVec 1) : Byte := 0x80 ||| (line.setWidth 8 <<< 6)

/-- `T(dsel)` (42_init_sequencer.md R146). -/
def delayOf (c : Config) (d : DelaySel) : Nat :=
  match d with
  | .step => c.tStep
  | .reset => c.tReset
  | .clear => c.tClear
  | .home => c.tHome

/-- The initialization table (R85), in index order. -/
def initTable (c : Config) : List InitEntry :=
  [ ⟨.nib, 0x03, .reset⟩, ⟨.nib, 0x03, .reset⟩, ⟨.nib, 0x03, .reset⟩, ⟨.nib, 0x02, .step⟩,
    ⟨.byte, 0x28, .step⟩, ⟨.byte, c.dispctl, .step⟩, ⟨.byte, 0x01, .clear⟩, ⟨.byte, 0x02, .home⟩ ]

/-- `MemRead(k, 1)` (00_scope.md R9): entry `k` of the initialization table; indices above 7 do not exist. -/
def memRead (c : Config) (k : Nat) : Option InitEntry := (initTable c)[k]?

/-- `e[10]` of an entry word (R85): 0 `NIB`, 1 `BYTE`. -/
def kindBit (k : EntryKind) : BitVec 1 :=
  match k with
  | .nib => 0
  | .byte => 1

/-- `e[9:8]` of an entry word (R85): 0 `T_STEP`, 1 `T_RESET`, 2 `T_CLEAR`, 3 `T_HOME`. -/
def dselBits (d : DelaySel) : BitVec 2 :=
  match d with
  | .step => 0
  | .reset => 1
  | .clear => 2
  | .home => 3

/-- The 11-bit packing of an entry (R85): `{kind, dsel, value}`. -/
def InitEntry.word (e : InitEntry) : BitVec 11 :=
  kindBit e.kind ++ dselBits e.dsel ++ e.value

/-- The physical pin that carries role `p` (00_scope.md R5). -/
def pinOf (c : Config) (p : Pin) : Nat :=
  match p with
  | .rs => c.pinRs
  | .en => c.pinEn
  | .d4 => c.pinD4
  | .d5 => c.pinD5
  | .d6 => c.pinD6
  | .d7 => c.pinD7

end Sys2Proof.Machine
end

