-- ==== Sys2Proof/Machine/Expand.lean ====
section
/-! DEFINITION. The expansions: the list of micro-operations each instruction stands for, one definition for each row of the
opcode table, and `expand` on command words (spec/30_encoding.md R81). -/

namespace Sys2Proof.Machine

/-- SEND_NIBBLE (spec/40_pulse_controller.md R110 under DirectToggle, R111 under TimerPulse). -/
def sendNibbleUops (c : Config) (n : Nibble) : List Uop :=
  match c.enStrategy with
  | .directToggle =>
      [ .data n, .en (enIdle c), .delay c.tEnSetup, .en (enAct c), .delay c.tEnWidth, .en (enIdle c), .delay c.tEnHold ]
  | .timerPulse => [ .data n, .delay c.tEnSetup, .pulse c.tEnWidth, .delay c.tEnHold ]

/-- SEND_BYTE (41_byte_transmission.md R130): RS first, then the high nibble, then the low nibble. -/
def sendByteUops (c : Config) (v : Byte) (m : SendMode) : List Uop :=
  [.rs (rsLevel m)] ++ sendNibbleUops c (hiNibble v) ++ sendNibbleUops c (loNibble v)

/-- INIT's prologue (42_init_sequencer.md R146). -/
def initPrologue : List Uop :=
  [ .cfgOut .rs, .cfgOut .en, .cfgOut .d4, .cfgOut .d5, .cfgOut .d6, .cfgOut .d7, .rs false ]

/-- ENTRY(k) of a table entry (42_init_sequencer.md R146). -/
def entryUops (c : Config) (e : InitEntry) : List Uop :=
  (match e.kind with
    | .nib => sendNibbleUops c (loNibble e.value)
    | .byte => sendByteUops c e.value .instruction)
  ++ [.delay (delayOf c e.dsel)]

/-- INIT (42_init_sequencer.md R146). -/
def initUops (c : Config) : List Uop :=
  initPrologue ++ (initTable c).flatMap (entryUops c)

/-- CLEAR (43_display_commands.md R165). -/
def clearUops (c : Config) : List Uop :=
  sendByteUops c 0x01 .instruction ++ [.delay c.tClear]

/-- SETCUR (43_display_commands.md R166). -/
def setcurUops (c : Config) (line : BitVec 1) : List Uop :=
  sendByteUops c (cursorByte line) .instruction

/-- SENDI (41_byte_transmission.md R131). -/
def sendiUops (c : Config) (value : Byte) : List Uop :=
  sendByteUops c value .instruction

/-- SENDD (41_byte_transmission.md R132). -/
def senddUops (c : Config) (value : Byte) : List Uop :=
  sendByteUops c value .data

/-- SENDB (30_encoding.md R90). -/
def sendbUops (c : Config) (value : Byte) (mode : SendMode) : List Uop :=
  match mode with
  | .instruction => sendiUops c value
  | .data => senddUops c value

/-- WRLINE (44_text_writer.md R180): its commands' lists, one after the other. -/
def wrlineUops (c : Config) (text : List Nat) (line : Nat) : List Uop :=
  setcurUops c (BitVec.ofNat 1 line) ++ text.flatMap (fun ch => senddUops c (charCode ch))

/-- The micro-operations an instruction stands for (30_encoding.md R81, R90, R91). -/
def uopsOf (c : Config) (i : Instr) : List Uop :=
  match i with
  | .init => initUops c
  | .clear => clearUops c
  | .setcur line => setcurUops c line
  | .sendi value => sendiUops c value
  | .sendd value => senddUops c value
  | .sendByte v m => sendByteUops c v m
  | .sendNibble n => sendNibbleUops c n
  | .wrline text line => wrlineUops c text line
  | .sendb value mode => sendbUops c value mode

/-- `expand(cw)` (30_encoding.md R81), defined on legal words; the empty list elsewhere, where nothing can be performed. -/
def expand (c : Config) (cw : CmdWord) : List Uop :=
  match decode cw with
  | .ok i => uopsOf c i
  | .error _ => []

/-- `op(cw) = INIT` (10_state.md R34, R37). -/
def isInit (cw : CmdWord) : Bool := opField cw == 0b000

end Sys2Proof.Machine
end

