-- ==== Sys2Proof/Machine/State.lean ====
section
/-! DEFINITION. The state of LCDNIB as plain data: everything spec/10_state.md R20 lists, the ghost trace and latched stream of
20_memory.md R59 and R61, the configuration record (00_scope.md R5) and the environment's ports (10_state.md R31). -/

namespace Sys2Proof.Machine

/-- Why the machine stops. The spec has no fault (60_exceptions.md R190, R207): both names are for states that 10_state.md R39
(b) and R36 rule out and that no run from reset reaches (log 8). -/
inductive Fault
  /-- Raised by a perform step with `upc` at or beyond the end of `expand(cmdr)`: R35 says nothing of it. Safe. -/
  | noMicroOp
  /-- Raised by a timer-done step whose `expand(cmdr)[upc]` is no DELAY and no PULSE: R36 says nothing of it. Safe. -/
  | noTimedMicroOp
  deriving DecidableEq, Repr

/-- What has no meaning. The two refusals of the spec are not here: they are exceptions that are taken (Machine/Ops.lean,
`State.raise`). -/
inductive Refusal
  /-- Raised by exec's arm of an instruction not modelled yet; no arm raises it. Safe. -/
  | notModelled (mnemonic : String)
  /-- Raised by every step and every meaning under an ill-formed configuration, which 00_scope.md R6 gives no meaning. Safe. -/
  | illFormedConfig
  /-- Raised by WRLINE with a line or a character that has no expansion (44_text_writer.md R180, R182). Safe. -/
  | noExpansion
  deriving DecidableEq, Repr

/-- The whole state. `cfg` is a parameter no step writes; `host`, `inputs` and `outs` are the environment and the ports made
data; `trace` and `latched` are ghosts (log 1, 4, 5, 9, 14). -/
structure State where
  cfg : Config
  /-- The pin latches `x[p]` (10_state.md R21). -/
  x : Lines
  /-- The output enables `oe[p]` (10_state.md R22). -/
  oe : Lines
  /-- The lifecycle (10_state.md R26). -/
  life : Life
  /-- A command is in flight (10_state.md R25). -/
  busy : Bool
  /-- Waiting for the timing capability (10_state.md R25). -/
  dly : Bool
  /-- The command word in flight (10_state.md R24). -/
  cmdr : CmdWord
  /-- The index of the next micro-operation (10_state.md R24). -/
  upc : Upc
  /-- The command words the host still has to present, oldest first (10_state.md R34; 70_reset_and_hazards.md R238). -/
  host : List CmdWord
  /-- The input ports in the coming steps (10_state.md R31); all deasserted after the end of the list. -/
  inputs : List Inputs
  /-- The step-wide output ports of the last step (10_state.md R31). -/
  outs : Outs
  /-- The trace, oldest first, with a marker at each reset step (20_memory.md R59). -/
  trace : List TraceItem
  /-- The latched stream, oldest first (20_memory.md R61). -/
  latched : List Latched
  deriving DecidableEq, Repr

/-- The machine right after reset under the configuration `c` (10_state.md R32; 70_reset_and_hazards.md R221). -/
def State.resetOf (c : Config) : State where
  cfg := c
  x := { Lines.off with en := enIdle c }
  oe := Lines.off
  life := .uninitialized
  busy := false
  dly := false
  cmdr := 0
  upc := 0
  host := []
  inputs := []
  outs := .quiet
  trace := []
  latched := []

/-- The machine right after reset under the default configuration (log 2). -/
def State.reset : State := State.resetOf Config.default

end Sys2Proof.Machine
end

