-- ==== Sys2Proof/Machine/Flags.lean ====
section
/-! DEFINITION. The sequencing flags `busy`, `dly`, `life` (spec/10_state.md R25, R26), `advance` with retirement (R37), and the
output ports as functions of the state (R23, R31). LCDNIB computes no arithmetic flag (30_encoding.md R93). -/

namespace Sys2Proof.Machine

/-- The 2-bit code of the `life` port (R20, R26). -/
def Life.code (l : Life) : BitVec 2 :=
  match l with
  | .uninitialized => 0
  | .initializing => 1
  | .ready => 2

/-- The 2-bit code on `cmd_resp` (60_exceptions.md R191). -/
def Resp.code (r : Resp) : BitVec 2 :=
  match r with
  | .accept => 0
  | .notInitialized => 1
  | .illegalCommand => 2

/-- `busy <- 0`, and `life <- Ready` if the command was INIT (R37). -/
def State.retire (s : State) : State :=
  if isInit s.cmdr then { s with busy := false, life := .ready } else { s with busy := false }

/-- `upc <- upc + 1` (R37). -/
def State.nextUpc (s : State) : State := { s with upc := s.upc + 1 }

/-- `advance()` (R37): `upc` up by one, and retirement when it reaches the end of the expansion. -/
def State.advance (s : State) : State :=
  if s.nextUpc.upc.toNat = (expand s.cfg s.cmdr).length then s.nextUpc.retire else s.nextUpc

/-- `cmd_ready = not busy` (R31). -/
def State.cmdReady (s : State) : Bool := !s.busy

/-- The `life` port (R31). -/
def State.lifePort (s : State) : BitVec 2 := s.life.code

/-- The `cmd_resp` port of the last step, where a command was taken in it (R31). -/
def State.cmdRespPort (s : State) : Option (BitVec 2) := s.outs.cmdResp.map Resp.code

/-- `tmr_start` (R31). -/
def State.tmrStart (s : State) : Bool := s.outs.timer.isSome

/-- `tmr_pulse`, with `tmr_start` only (R31; log 9). -/
def State.tmrPulse (s : State) : Option Bool := s.outs.timer.map TimerStart.pulse

/-- `tmr_dur`, with `tmr_start` only (R31; log 9). -/
def State.tmrDur (s : State) : Option Nat := s.outs.timer.map TimerStart.dur

/-- `pad[p]` (R23): the latch when the pin is an output, `none` for `Z`. -/
def State.pad (s : State) (p : Pin) : Option Bool :=
  if s.oe.get p then some (s.x.get p) else none

/-- The level the external controller sees on pin `p` (R23): on an undriven pad any value, the draw it is given (log 17). -/
def State.seenLevel (draw : Bool) (s : State) (p : Pin) : Bool :=
  match s.pad p with
  | some b => b
  | none => draw

/-- `lcd_rs` (R31). -/
def State.lcdRs (s : State) : Option Bool := s.pad .rs

/-- `lcd_en` (R31). -/
def State.lcdEn (s : State) : Option Bool := s.pad .en

/-- `lcd_d[7:4]` (R31), D7 first. -/
def State.lcdD (s : State) : List (Option Bool) := [s.pad .d7, s.pad .d6, s.pad .d5, s.pad .d4]

/-- `lcd_oe[5:0]` (R31), in the order RS EN D7 D6 D5 D4 of 95_test_vectors.md (log 18). -/
def State.lcdOe (s : State) : BitVec 6 :=
  BitVec.ofBool s.oe.rs ++ BitVec.ofBool s.oe.en ++ BitVec.ofBool s.oe.d7 ++ BitVec.ofBool s.oe.d6
    ++ BitVec.ofBool s.oe.d5 ++ BitVec.ofBool s.oe.d4

end Sys2Proof.Machine
end

