-- ==== Sys2Proof/Machine/Ops.lean ====
section
/-! DEFINITION. The shared operations: the effects of the micro-operations (spec/20_memory.md R58, R61), perform and timer done
(10_state.md R35, R36), accept and the two exceptions (10_state.md R34; 60_exceptions.md R191 to R198), the reset step
(70_reset_and_hazards.md R220), and running an internal operation's list. -/

namespace Sys2Proof.Machine

/-- The step-wide output ports deasserted: they last one step (10_state.md R31). -/
def State.clearOuts (s : State) : State := { s with outs := .quiet }

/-- What a latching edge appends (20_memory.md R61): `(x[RS], D)` if all six `oe` bits are 1, else `undriven`. -/
def State.latchItem (s : State) : Latched :=
  if s.oe.allOn then .nibble s.x.rs s.x.data else .undriven

/-- `x[EN] <- b`; a change from `EN_ACT` to `EN_IDLE` is the latching edge (20_memory.md R61; 40_pulse_controller.md R115). -/
def State.writeEn (b : Bool) (s : State) : State :=
  if s.x.en = enAct s.cfg ∧ b = enIdle s.cfg then
    { s with x := { s.x with en := b }, latched := s.latched ++ [s.latchItem] }
  else { s with x := { s.x with en := b } }

/-- Start the timing capability (10_state.md R31, R35): `dly <- 1`, `tmr_start`, `tmr_pulse`, `tmr_dur`. -/
def State.startTimer (pulse : Bool) (t : Nat) (s : State) : State :=
  { s with dly := true, outs := { s.outs with timer := some ⟨pulse, t⟩ } }

/-- The effect of a micro-operation on latches, `oe` bits and `dly` (20_memory.md R58; 10_state.md R35). -/
def State.effect (u : Uop) (s : State) : State :=
  match u with
  | .cfgOut p => { s with oe := s.oe.set p true }
  | .rs b => { s with x := { s.x with rs := b } }
  | .data n => { s with x := s.x.setData n }
  | .en b => s.writeEn b
  | .delay t => s.startTimer false t
  | .pulse t => (s.writeEn (enAct s.cfg)).startTimer true t

/-- `emit(u)` (00_scope.md R9): the effect, and `u` appended to the trace. -/
def State.emit (u : Uop) (s : State) : State :=
  { s.effect u with trace := s.trace ++ [.op u] }

/-- The end of a DELAY or PULSE (10_state.md R36): a PULSE's EN goes idle, `dly <- 0`. -/
def State.endTimer (u : Uop) (s : State) : State :=
  match u with
  | .pulse _ => { s.writeEn (enIdle s.cfg) with dly := false }
  | _ => { s with dly := false }

/-- The micro-operation `expand(cmdr)[upc]`. -/
def State.current (s : State) : Option Uop := (expand s.cfg s.cmdr)[s.upc.toNat]?

/-- Perform (10_state.md R35), for a state with `busy = 1` and `dly = 0`. -/
def State.perform (s : State) : Host.Outcome State Fault Refusal :=
  match s.current with
  | none => .fault .noMicroOp
  | some u => if u.timed then .next (s.emit u) else .next (s.emit u).advance

/-- Timer done (10_state.md R36), for a state with `dly = 1`. -/
def State.timerDone (s : State) : Host.Outcome State Fault Refusal :=
  match s.current with
  | none => .fault .noTimedMicroOp
  | some u => if u.timed then .next (s.endTimer u).advance else .fault .noTimedMicroOp

/-- The reset step (70_reset_and_hazards.md R220): every register at its value of 10_state.md R32. The trace gets the marker
RESET (20_memory.md R59), the latched stream `undriven` if EN was active (R61). The configuration is not changed; the host's
words and the ports to come are not the block's (log 15). -/
def State.resetStep (s : State) : State :=
  { s with
    x := { Lines.off with en := enIdle s.cfg }
    oe := Lines.off
    life := .uninitialized
    busy := false
    dly := false
    cmdr := 0
    upc := 0
    outs := .quiet
    trace := s.trace ++ [.reset]
    latched := if s.x.en = enAct s.cfg then s.latched ++ [.undriven] else s.latched }

/-- TAKING AN EXCEPTION (60_exceptions.md R197): its code on `cmd_resp` in the accept step and no other change. Nothing is saved
and there is no handler, so there is no return from one (R198): the next step goes on from the same state. -/
def State.raise (e : Resp) (s : State) : State :=
  { s with outs := { s.outs with cmdResp := some e } }

/-- The accepting branch of R34: `cmdr <- cw`, `upc <- 0`, `busy <- 1`, answer `Accept`. -/
def State.take (cw : CmdWord) (s : State) : State :=
  { s with cmdr := cw, upc := 0, busy := true, outs := { s.outs with cmdResp := some .accept } }

/-- R34 for a legal word other than INIT: `NotInitialized` under `STRICT_INIT` unless `life = Ready` (60_exceptions.md R192),
else accepted (R194). -/
def State.takeIfReady (cw : CmdWord) (s : State) : State :=
  if s.cfg.strictInit = true ∧ s.life ≠ .ready then s.raise .notInitialized else s.take cw

/-- A command word at the port: answered only while `busy = 0`; while `busy = 1` it is no event and nothing is answered
(10_state.md R34; 60_exceptions.md R196 (3)). An ill-formed configuration has no meaning (00_scope.md R6). -/
def State.atPort (answer : State → State) (s : State) : Host.Outcome State Fault Refusal :=
  if s.cfg.wf then (if s.busy then .next s else .next (answer s)) else .refused .illFormedConfig

/-- One micro-operation performed to its end: the perform step and, for DELAY and PULSE, the timer-done step, with `upc` up by
one and no retirement, which is the enclosing command's (40_pulse_controller.md R117). -/
def State.runUop (u : Uop) (s : State) : State :=
  (if u.timed then ((s.clearOuts.emit u).endTimer u).clearOuts else s.clearOuts.emit u).nextUpc

/-- A list of micro-operations performed in order, each to its end. -/
def State.runUops (us : List Uop) (s : State) : State :=
  us.foldl (fun t u => t.runUop u) s

/-- An internal operation (30_encoding.md R91): its list is performed where R35 lets the block perform, with `busy = 1` and
`dly = 0`; elsewhere the block performs nothing (10_state.md R25, R38; log 11). -/
def State.runInternal (us : List Uop) (s : State) : Host.Outcome State Fault Refusal :=
  if s.cfg.wf then (if s.busy && !s.dly then .next (s.runUops us) else .next s) else .refused .illFormedConfig

end Sys2Proof.Machine
end

