-- ==== Sys2Proof/Machine/ByteSend.lean ====
section
/-! DEFINITION. Byte transmission: SEND_BYTE, SENDI, SENDD and the spelling SENDB (spec/41_byte_transmission.md R130 to R136;
30_encoding.md R90). -/

namespace Sys2Proof.Machine

/-- SEND_BYTE(v, m): its list performed (R130); internal. -/
def execSendByte (v : Byte) (m : SendMode) (s : State) : Host.Outcome State Fault Refusal :=
  s.runInternal (sendByteUops s.cfg v m)

/-- SENDI value, word `0x400 | value` (R131). Accepting it starts `SEND_BYTE(value, 0)`. -/
def execSendi (value : Byte) (s : State) : Host.Outcome State Fault Refusal :=
  s.atPort (State.takeIfReady (0x400 ||| value.setWidth 11))

/-- SENDD value, word `0x500 | value` (R132). Accepting it starts `SEND_BYTE(value, 1)`. -/
def execSendd (value : Byte) (s : State) : Host.Outcome State Fault Refusal :=
  s.atPort (State.takeIfReady (0x500 ||| value.setWidth 11))

/-- SENDB value, mode: SENDI value or SENDD value (30_encoding.md R90). -/
def execSendb (value : Byte) (mode : SendMode) (s : State) : Host.Outcome State Fault Refusal :=
  match mode with
  | .instruction => s.atPort (State.takeIfReady (sendWord .instruction value))
  | .data => s.atPort (State.takeIfReady (sendWord .data value))

end Sys2Proof.Machine
end

