-- ==== Sys2Proof/Machine/Display.lean ====
section
/-! DEFINITION. The display commands CLEAR and SETCUR (spec/43_display_commands.md R165 to R168). -/

namespace Sys2Proof.Machine

/-- CLEAR, word `0x100` (R165). Accepting it starts `SEND_BYTE(0x01, 0) ++ [DELAY(T_CLEAR)]`. -/
def execClear (s : State) : Host.Outcome State Fault Refusal :=
  s.atPort (State.takeIfReady 0x100)

/-- SETCUR line, word `0x200 | line` (R166). Accepting it starts `SEND_BYTE(0x80 | (line << 6), 0)`. -/
def execSetcur (line : BitVec 1) (s : State) : Host.Outcome State Fault Refusal :=
  s.atPort (State.takeIfReady (setcurWord line))

end Sys2Proof.Machine
end

