-- ==== Sys2Proof/Machine/Init.lean ====
section
/-! DEFINITION. The initialization state machine: INIT (spec/42_init_sequencer.md R145 to R153). -/

namespace Sys2Proof.Machine

/-- INIT, word `0x000` (R145): accepted in every lifecycle state while `busy = 0`, never `NotInitialized`;
`life <- Initializing`. Accepting it starts the list of R146. -/
def execInit (s : State) : Host.Outcome State Fault Refusal :=
  s.atPort (fun t => { t with life := .initializing }.take 0x000)

end Sys2Proof.Machine
end

