-- ==== Sys2Proof/Machine/Pulse.lean ====
section
/-! DEFINITION. The RS/EN pulse controller: SEND_NIBBLE (spec/40_pulse_controller.md R110 to R117). -/

namespace Sys2Proof.Machine

/-- SEND_NIBBLE(n): its list performed (R110, R111); internal, so no step of the machine decodes to it (30_encoding.md R83). -/
def execSendNibble (n : Nibble) (s : State) : Host.Outcome State Fault Refusal :=
  s.runInternal (sendNibbleUops s.cfg n)

end Sys2Proof.Machine
end

