-- ==== Sys2Proof/Machine/TextWriter.lean ====
section
/-! DEFINITION. The Line/Text Writer: the pseudo-instruction WRLINE (spec/44_text_writer.md R180 to R184). -/

namespace Sys2Proof.Machine

/-- WRLINE text, line (R180): the host expands it into its `n + 1` command words, which it presents next, in order, each when
`cmd_ready = 1` (log 12). No part of the block changes in the expansion itself. A line or character without an expansion (R180,
R182) is refused. -/
def execWrline (text : List Nat) (line : Nat) (s : State) : Host.Outcome State Fault Refusal :=
  if s.cfg.wf then
    if (Instr.wrline text line).wf then .next { s with host := encode (.wrline text line) ++ s.host }
    else .refused .noExpansion
  else .refused .illFormedConfig

end Sys2Proof.Machine
end

