-- ==== Sys2Proof/Machine/Dispatch.lean ====
section
/-! DEFINITION. One arm per constructor of Instr. -/

namespace Sys2Proof.Machine

-- The meaning of each row of spec/opcode_table.json.
def exec (i : Instr) (s : State) : Host.Outcome State Fault Refusal :=
  match i with
  | .init => Sys2Proof.Machine.execInit s
  | .clear => Sys2Proof.Machine.execClear s
  | .setcur line => Sys2Proof.Machine.execSetcur line s
  | .sendi value => Sys2Proof.Machine.execSendi value s
  | .sendd value => Sys2Proof.Machine.execSendd value s
  | .sendByte v m => Sys2Proof.Machine.execSendByte v m s
  | .sendNibble n => Sys2Proof.Machine.execSendNibble n s
  | .wrline text line => Sys2Proof.Machine.execWrline text line s
  | .sendb value mode => Sys2Proof.Machine.execSendb value mode s

end Sys2Proof.Machine
end

