-- ==== Sys2Proof/Machine/Cycle.lean ====
section
/-! DEFINITION. One step for given input ports (spec/10_state.md R33, R38; 60_exceptions.md R195, R196), and runs over a list of
port levels. -/

namespace Sys2Proof.Machine

/-- Accept (R34): the word at the port is consumed; a legal one is executed, a reserved one answered `IllegalCommand` whatever
`life` is (60_exceptions.md R193, R196 (2)). -/
def State.acceptWord (cw : CmdWord) (s : State) : Host.Outcome State Fault Refusal :=
  match decode cw with
  | .ok i => exec i s
  | .error _ => .next (s.raise .illegalCommand)

/-- One step (R33) with the input ports at `inp`. Reset first (60_exceptions.md R196 (1)); with `busy = 0` accept or hold (R38);
with `busy = 1` perform while `dly = 0`, else wait for `tmr_done`. The step-wide outputs of the step before are gone. -/
def cycle (inp : Inputs) (s : State) : Host.Outcome State Fault Refusal :=
  if s.cfg.wf then
    if inp.rst then .next s.resetStep
    else if s.busy then
      if s.dly then (if inp.tmrDone then s.clearOuts.timerDone else .next s.clearOuts) else s.clearOuts.perform
    else if inp.cmdValid then
      match s.host with
      | [] => .next s.clearOuts
      | cw :: rest => { s.clearOuts with host := rest }.acceptWord cw
    else .next s.clearOuts
  else .refused .illFormedConfig

/-- Steps with the input ports given one list entry a step, stopping at the first fault or refusal. -/
def runWith (ins : List Inputs) (s : State) : Host.Outcome State Fault Refusal :=
  match ins with
  | [] => .next s
  | i :: rest =>
    match cycle i s with
    | .next t => runWith rest t
    | .fault f => .fault f
    | .refused r => .refused r

/-- Every word was presented and the last command retired or was refused (70_reset_and_hazards.md R238). -/
def State.allDone (s : State) : Bool := s.host.isEmpty && !s.busy

/-- The run of the program `s.host` from `s` with the input ports given one list entry a step, and the state it ends in or has come
to (70_reset_and_hazards.md R238): over in the first state in which all words are done, aborted by a reset step before that. -/
def runProgram (ins : List Inputs) (s : State) : RunStatus × State :=
  if s.allDone then (.over, s)
  else
    match ins with
    | [] => (.running, s)
    | i :: rest =>
      match cycle i s with
      | .next t => if i.rst then (.aborted, t) else runProgram rest t
      | .fault _ => (.stopped, s)
      | .refused _ => (.stopped, s)

/-- How many steps a list of micro-operations takes when the timing capability answers in the next step: one each, and one more
for a DELAY or PULSE (95_test_vectors.md V21). -/
def stepsFor (us : List Uop) : Nat :=
  us.length + us.countP Uop.timed

/-- `n` steps in which only the timing capability acts. -/
def runTimed (n : Nat) (s : State) : Host.Outcome State Fault Refusal :=
  runWith (List.replicate n Inputs.timer) s

end Sys2Proof.Machine
end

