-- ==== Sys2Proof/Machine/Step.lean ====
section
/-! DEFINITION. The step function: one `cycle` with the next entry of `inputs`; and the state in which the next step accepts a
given command word. -/

namespace Sys2Proof.Machine

/-- One step: the ports are at the head of `inputs`, all deasserted after its end (log 4). -/
def step (s : State) : Host.Outcome State Fault Refusal :=
  match s.inputs with
  | [] => cycle .quiet s
  | i :: rest => cycle i { s with inputs := rest }

/-- `s` with the command word `w` presented to an idle block in the next step: `w` heads the host's words, `cmd_valid` is
asserted in the coming step, and no command is in flight (log 6). `cmd_word` has 11 bits. -/
def State.withFetchWord (s : State) (_nbits w : Nat) : State :=
  { s with
    host := BitVec.ofNat 11 w :: s.host
    inputs := Inputs.present :: s.inputs
    busy := false
    dly := false }

end Sys2Proof.Machine
end

