-- ==== Sys2Proof/Machine/Observe.lean ====
section
/-! DEFINITION. The observations of spec/20_memory.md R59 to R61 on lists of micro-operations: the trace since the last reset, the
waveform, and the least durations of 70_reset_and_hazards.md R236. -/

namespace Sys2Proof.Machine

/-- The micro-operations since the last RESET marker (R59: "performed since the last reset"). -/
def sinceReset (items : List TraceItem) : List Uop :=
  items.foldl (fun acc it => match it with | .op u => acc ++ [u] | .reset => []) []

/-- The latched bytes of a stretch of the latched stream: its pairs taken two by two, `(m, h), (m, l)` being the byte
`(m, {h, l})` (R61). DESIGN CHOICE (log 23): R61 speaks of stretches produced by byte transfers, and a stretch with a marker, with
a nibble left over, or with two nibbles of different RS levels in one pair has no bytes: none. -/
def latchedBytes (items : List Latched) : Option (List (Bool × Byte)) :=
  match items with
  | [] => some []
  | .nibble m h :: .nibble k l :: r => if m = k then (latchedBytes r).map ((m, h ++ l) :: ·) else none
  | _ => none

/-- Waveform, rewriting (1) of R60: each PULSE as the three items it stands for. -/
def explode (c : Config) (us : List Uop) : List Uop :=
  us.flatMap (fun u => match u with
    | .pulse t => [.en (enAct c), .delay t, .en (enIdle c)]
    | v => [v])

/-- Waveform, rewriting (2) of R60: walking from latches `x` and enables `oe`, writes that change no level are deleted. -/
def dropUnchanged (x oe : Lines) (us : List Uop) : List Uop :=
  match us with
  | [] => []
  | .cfgOut p :: r =>
      if oe.get p then dropUnchanged x oe r else .cfgOut p :: dropUnchanged x (oe.set p true) r
  | .rs b :: r => if x.rs = b then dropUnchanged x oe r else .rs b :: dropUnchanged { x with rs := b } oe r
  | .data n :: r => if x.data = n then dropUnchanged x oe r else .data n :: dropUnchanged (x.setData n) oe r
  | .en b :: r => if x.en = b then dropUnchanged x oe r else .en b :: dropUnchanged { x with en := b } oe r
  | .delay t :: r => .delay t :: dropUnchanged x oe r
  | .pulse t :: r => .pulse t :: dropUnchanged x oe r

/-- A DELAY of `t`, deleted if `t` is 0. -/
def delayItem (t : Nat) : List Uop := if t = 0 then [] else [.delay t]

/-- Waveform, rewriting (3) of R60: runs of DELAYs summed, `acc` being the run so far. -/
def mergeDelays (acc : Nat) (us : List Uop) : List Uop :=
  match us with
  | [] => delayItem acc
  | .delay t :: r => mergeDelays (acc + t) r
  | .cfgOut p :: r => delayItem acc ++ .cfgOut p :: mergeDelays 0 r
  | .rs b :: r => delayItem acc ++ .rs b :: mergeDelays 0 r
  | .data n :: r => delayItem acc ++ .data n :: mergeDelays 0 r
  | .en b :: r => delayItem acc ++ .en b :: mergeDelays 0 r
  | .pulse t :: r => delayItem acc ++ .pulse t :: mergeDelays 0 r

/-- The waveform of a list of micro-operations from latches `x` and enables `oe` (R60). -/
def waveform (c : Config) (x oe : Lines) (us : List Uop) : List Uop :=
  mergeDelays 0 (dropUnchanged x oe (explode c us))

/-- The time a micro-operation takes at least, in microseconds (20_memory.md R63, R67). -/
def Uop.time (u : Uop) : Nat :=
  match u with
  | .cfgOut _ => 0
  | .rs _ => 0
  | .data _ => 0
  | .en _ => 0
  | .delay t => t
  | .pulse t => t

/-- The lower bound on the duration of a list of micro-operations (70_reset_and_hazards.md R236). -/
def leastTime (us : List Uop) : Nat := (us.map Uop.time).sum

/-- `T_NIB` (40_pulse_controller.md R117). -/
def tNib (c : Config) : Nat := c.tEnSetup + c.tEnWidth + c.tEnHold

/-- A micro-operation that takes EN active: `EN(EN_ACT)`, or a PULSE. -/
def Uop.raisesEn (c : Config) (u : Uop) : Bool :=
  match u with
  | .cfgOut _ => false
  | .rs _ => false
  | .data _ => false
  | .en b => b == enAct c
  | .delay _ => false
  | .pulse _ => true

/-- The number of EN pulses of a list (70_reset_and_hazards.md R236). -/
def enPulses (c : Config) (us : List Uop) : Nat := us.countP (Uop.raisesEn c)

end Sys2Proof.Machine
end

