-- ==== Sys2Proof/Machine/Views.lean ====
section
/-! DEFINITION. The three nested state machines of LCDNIB as views of `upc`: the pulse controller (spec/40_pulse_controller.md
R113), the byte machine (41_byte_transmission.md R134), the initializer (42_init_sequencer.md R148). Each view is written from
its rule's table, not from the expansion lists. -/

namespace Sys2Proof.Machine

/-- The phases of the pulse controller (R113): P0 to P6 under DirectToggle, Q0 to Q3 under TimerPulse. -/
inductive PulsePhase
  | pIdle
  | p0Load
  | p1Idle0
  | p2Setup
  | p3Rise
  | p4Width
  | p5Fall
  | p6Hold
  | q0Load
  | q1Setup
  | q2Pulse
  | q3Hold
  deriving DecidableEq, Repr

/-- The states of the byte machine (R134). -/
inductive ByteState
  | bRs
  | bHi
  | bLo
  | bDone
  deriving DecidableEq, Repr

/-- The states of the initializer (R148). -/
inductive InitState
  | iCfg
  | iRs
  | iE0
  | iE1
  | iE2
  | iE3
  | iE4
  | iE5
  | iE6
  | iE7
  | done
  deriving DecidableEq, Repr

/-- Micro-operations in a nibble: 7 or 4 (R110, R111). -/
def nibbleLen (st : EnStrategy) : Nat :=
  match st with
  | .directToggle => 7
  | .timerPulse => 4

/-- Offset of `B_DONE`: 15 or 9 (R134). -/
def byteLen (st : EnStrategy) : Nat :=
  match st with
  | .directToggle => 15
  | .timerPulse => 9

/-- The phase whose micro-operation is the `j`-th of a nibble (R113). -/
def pulsePhaseAt (st : EnStrategy) (j : Nat) : PulsePhase :=
  match st, j with
  | .directToggle, 0 => .p0Load
  | .directToggle, 1 => .p1Idle0
  | .directToggle, 2 => .p2Setup
  | .directToggle, 3 => .p3Rise
  | .directToggle, 4 => .p4Width
  | .directToggle, 5 => .p5Fall
  | .directToggle, 6 => .p6Hold
  | .timerPulse, 0 => .q0Load
  | .timerPulse, 1 => .q1Setup
  | .timerPulse, 2 => .q2Pulse
  | .timerPulse, 3 => .q3Hold
  | _, _ => .pIdle

/-- The micro-operation a phase performs on the nibble in hand (R113). -/
def phaseUop (c : Config) (n : Nibble) (ph : PulsePhase) : Option Uop :=
  match ph with
  | .pIdle => none
  | .p0Load => some (.data n)
  | .p1Idle0 => some (.en (enIdle c))
  | .p2Setup => some (.delay c.tEnSetup)
  | .p3Rise => some (.en (enAct c))
  | .p4Width => some (.delay c.tEnWidth)
  | .p5Fall => some (.en (enIdle c))
  | .p6Hold => some (.delay c.tEnHold)
  | .q0Load => some (.data n)
  | .q1Setup => some (.delay c.tEnSetup)
  | .q2Pulse => some (.pulse c.tEnWidth)
  | .q3Hold => some (.delay c.tEnHold)

/-- The byte state at an offset within a SEND_BYTE list (R134). -/
def byteStateAt (st : EnStrategy) (off : Nat) : ByteState :=
  match st with
  | .directToggle => if off = 0 then .bRs else if off ≤ 7 then .bHi else if off ≤ 14 then .bLo else .bDone
  | .timerPulse => if off = 0 then .bRs else if off ≤ 4 then .bHi else if off ≤ 8 then .bLo else .bDone

/-- The phase at an offset within a SEND_BYTE list: `P((offset - 1) mod 7)`, `Q((offset - 1) mod 4)` (R134). -/
def bytePhaseAt (st : EnStrategy) (off : Nat) : PulsePhase :=
  match byteStateAt st off with
  | .bRs => .pIdle
  | .bHi => pulsePhaseAt st ((off - 1) % nibbleLen st)
  | .bLo => pulsePhaseAt st ((off - 1) % nibbleLen st)
  | .bDone => .pIdle

/-- The micro-operation the byte machine performs at an offset (R134). -/
def byteUop (c : Config) (v : Byte) (m : SendMode) (off : Nat) : Option Uop :=
  match byteStateAt c.enStrategy off with
  | .bRs => some (.rs (rsLevel m))
  | .bHi => phaseUop c (hiNibble v) (bytePhaseAt c.enStrategy off)
  | .bLo => phaseUop c (loNibble v) (bytePhaseAt c.enStrategy off)
  | .bDone => none

/-- The initializer's state at a value of `upc` (R148, both columns of its table). -/
def initStateAt (st : EnStrategy) (upc : Nat) : InitState :=
  match st with
  | .directToggle =>
      if upc ≤ 5 then .iCfg else if upc ≤ 6 then .iRs else if upc ≤ 14 then .iE0 else if upc ≤ 22 then .iE1
      else if upc ≤ 30 then .iE2 else if upc ≤ 38 then .iE3 else if upc ≤ 54 then .iE4 else if upc ≤ 70 then .iE5
      else if upc ≤ 86 then .iE6 else if upc ≤ 102 then .iE7 else .done
  | .timerPulse =>
      if upc ≤ 5 then .iCfg else if upc ≤ 6 then .iRs else if upc ≤ 11 then .iE0 else if upc ≤ 16 then .iE1
      else if upc ≤ 21 then .iE2 else if upc ≤ 26 then .iE3 else if upc ≤ 36 then .iE4 else if upc ≤ 46 then .iE5
      else if upc ≤ 56 then .iE6 else if upc ≤ 66 then .iE7 else .done

/-- The first `upc` of an initializer state (R148). -/
def initStateStart (st : EnStrategy) (i : InitState) : Nat :=
  match st, i with
  | _, .iCfg => 0
  | _, .iRs => 6
  | _, .iE0 => 7
  | .directToggle, .iE1 => 15
  | .directToggle, .iE2 => 23
  | .directToggle, .iE3 => 31
  | .directToggle, .iE4 => 39
  | .directToggle, .iE5 => 55
  | .directToggle, .iE6 => 71
  | .directToggle, .iE7 => 87
  | .directToggle, .done => 103
  | .timerPulse, .iE1 => 12
  | .timerPulse, .iE2 => 17
  | .timerPulse, .iE3 => 22
  | .timerPulse, .iE4 => 27
  | .timerPulse, .iE5 => 37
  | .timerPulse, .iE6 => 47
  | .timerPulse, .iE7 => 57
  | .timerPulse, .done => 67

/-- The table entry an initializer state sends (R148). -/
def initEntryIndex (i : InitState) : Option Nat :=
  match i with
  | .iCfg => none
  | .iRs => none
  | .iE0 => some 0
  | .iE1 => some 1
  | .iE2 => some 2
  | .iE3 => some 3
  | .iE4 => some 4
  | .iE5 => some 5
  | .iE6 => some 6
  | .iE7 => some 7
  | .done => none

/-- The pins of `I_CFG` in order (R148). -/
def cfgPinAt (k : Nat) : Option Pin :=
  [Pin.rs, Pin.en, Pin.d4, Pin.d5, Pin.d6, Pin.d7][k]?

/-- The phase at an offset within a table entry. -/
def entryPhaseAt (st : EnStrategy) (k : EntryKind) (off : Nat) : PulsePhase :=
  match k with
  | .nib => pulsePhaseAt st off
  | .byte => bytePhaseAt st off

/-- The micro-operation of a table entry at an offset: its nibble or byte, then its delay (R148). -/
def entryUop (c : Config) (e : InitEntry) (off : Nat) : Option Uop :=
  match e.kind with
  | .nib =>
      if off = nibbleLen c.enStrategy then some (.delay (delayOf c e.dsel))
      else phaseUop c (loNibble e.value) (pulsePhaseAt c.enStrategy off)
  | .byte =>
      if off = byteLen c.enStrategy then some (.delay (delayOf c e.dsel)) else byteUop c e.value .instruction off

/-- The micro-operation the initializer performs at a value of `upc` (R148). -/
def initUop (c : Config) (upc : Nat) : Option Uop :=
  match initStateAt c.enStrategy upc with
  | .iCfg => (cfgPinAt upc).map Uop.cfgOut
  | .iRs => some (.rs false)
  | .done => none
  | st =>
    match (initEntryIndex st).bind (memRead c) with
    | none => none
    | some e => entryUop c e (upc - initStateStart c.enStrategy st)

/-- The micro-operation the nested machines perform for a command at a value of `upc`; a pseudo-instruction or internal operation
is no command (30_encoding.md R90, R91). -/
def nestedUop (c : Config) (i : Instr) (upc : Nat) : Option Uop :=
  match i with
  | .init => initUop c upc
  | .clear => if upc = byteLen c.enStrategy then some (.delay c.tClear) else byteUop c 0x01 .instruction upc
  | .setcur line => byteUop c (cursorByte line) .instruction upc
  | .sendi value => byteUop c value .instruction upc
  | .sendd value => byteUop c value .data upc
  | .sendByte _ _ => none
  | .sendNibble _ => none
  | .wrline _ _ => none
  | .sendb _ _ => none

/-- The pulse controller's phase for a command at a value of `upc` (R113). -/
def commandPhase (c : Config) (i : Instr) (upc : Nat) : PulsePhase :=
  match i with
  | .init =>
    match (initEntryIndex (initStateAt c.enStrategy upc)).bind (memRead c) with
    | none => .pIdle
    | some e => entryPhaseAt c.enStrategy e.kind (upc - initStateStart c.enStrategy (initStateAt c.enStrategy upc))
  | .clear => bytePhaseAt c.enStrategy upc
  | .setcur _ => bytePhaseAt c.enStrategy upc
  | .sendi _ => bytePhaseAt c.enStrategy upc
  | .sendd _ => bytePhaseAt c.enStrategy upc
  | .sendByte _ _ => .pIdle
  | .sendNibble _ => .pIdle
  | .wrline _ _ => .pIdle
  | .sendb _ _ => .pIdle

/-- The pulse controller's phase in a state (R113): `P_IDLE` when `busy = 0`. -/
def State.pulsePhase (s : State) : PulsePhase :=
  if s.busy then
    match decode s.cmdr with
    | .ok i => commandPhase s.cfg i s.upc.toNat
    | .error _ => .pIdle
  else .pIdle

/-- The initializer's state in a state of the block (R148): while `cmdr = 0x000`, the state of its `upc` if INIT is in flight, and
`done` if it has retired, with `upc` at the end of the table. Elsewhere, as right after reset, the initializer is in none. -/
def State.initState (s : State) : Option InitState :=
  if s.cmdr = 0x000 then
    if s.busy then some (initStateAt s.cfg.enStrategy s.upc.toNat)
    else if initStateAt s.cfg.enStrategy s.upc.toNat = .done then some .done
    else none
  else none

end Sys2Proof.Machine
end

