-- ==== Sys2Proof/Safety.lean ====
section
/-! DEFINITION. What claims are stated with: the invariant of the machine, the properties of spec/10_state.md R39, reachable states,
and the shape of the state in which a command retires. -/

namespace Sys2Proof.Machine

/-- The level of EN after a list of micro-operations, each performed to its end, that starts with EN idle. -/
def levelAfter (c : Config) (us : List Uop) : Bool :=
  us.foldl (fun l u => match u with | .en b => b | .pulse _ => enIdle c | _ => l) (enIdle c)

/-- The level `x[EN]` has in a state of a run: idle while `busy = 0`, active while a PULSE runs, else what the micro-operations
performed so far leave. -/
def State.enExpected (s : State) : Bool :=
  if s.busy then
    match s.current, s.dly with
    | some (.pulse _), true => enAct s.cfg
    | _, _ => levelAfter s.cfg ((expand s.cfg s.cmdr).take s.upc.toNat)
  else enIdle s.cfg

/-- The invariant every step keeps: the state part of R39, strengthened so that it is kept (the level of EN at every `upc`, the
`oe` bits INIT has set so far, and that a delay in progress is a timed micro-operation). -/
structure State.Inv (s : State) : Prop where
  config : s.cfg.wf = true
  delay_busy : s.dly = true → s.busy = true
  in_flight : s.busy = true → s.upc.toNat < (expand s.cfg s.cmdr).length ∧ legal s.cmdr = true
  delay_timed : s.dly = true → ∃ u, s.current = some u ∧ u.timed = true
  initializing : s.life = .initializing ↔ (s.busy = true ∧ isInit s.cmdr = true)
  en_level : s.x.en = s.enExpected
  configured : s.busy = true → isInit s.cmdr = true →
    ∀ p, Uop.cfgOut p ∈ (expand s.cfg s.cmdr).take s.upc.toNat → s.oe.get p = true
  ready_driven : s.life = .ready → s.oe.allOn = true
  strict_ready : s.cfg.strictInit = true → s.busy = true → isInit s.cmdr = false → s.life = .ready

/-- An RS or DATA micro-operation. -/
def Uop.writesLines (u : Uop) : Bool :=
  match u with
  | .cfgOut _ => false
  | .rs _ => true
  | .data _ => true
  | .en _ => false
  | .delay _ => false
  | .pulse _ => false

/-- An RS, DATA, EN or PULSE micro-operation. -/
def Uop.writesLatch (u : Uop) : Bool :=
  match u with
  | .cfgOut _ => false
  | .rs _ => true
  | .data _ => true
  | .en _ => true
  | .delay _ => false
  | .pulse _ => true

/-- R39 (a) to (f), (h), (i), each clause as the rule words it; (g) speaks of two states and is `oeOnlyByInit`. -/
structure State.R39 (s : State) : Prop where
  a : s.dly = true → s.busy = true
  b : s.busy = true → s.upc.toNat < (expand s.cfg s.cmdr).length ∧ legal s.cmdr = true
  c : s.life = .initializing ↔ (s.busy = true ∧ isInit s.cmdr = true)
  d : s.lifePort ≠ 3
  e_idle : s.busy = false → s.x.en = enIdle s.cfg
  e_pulse : s.x.en = enAct s.cfg →
    s.pulsePhase = .p4Width ∨ s.pulsePhase = .p5Fall ∨ (s.pulsePhase = .q2Pulse ∧ s.dly = true)
  f : ∀ u, s.busy = true → s.dly = false → s.current = some u → u.writesLines = true → s.x.en = enIdle s.cfg
  h : s.life = .ready → s.oe = Lines.on
  i : ∀ u, s.cfg.strictInit = true → s.busy = true → s.dly = false → s.current = some u → u.writesLatch = true →
    s.oe = Lines.on

/-- R39 (g) for a step from `s` to `t` with the ports at `inp`: an `oe` bit goes from 0 to 1 only inside INIT, and from 1 to 0
only by reset. -/
def oeOnlyByInit (inp : Inputs) (s t : State) : Prop :=
  ∀ p, (s.oe.get p = false → t.oe.get p = true → inp.rst = false ∧ s.busy = true ∧ isInit s.cmdr = true) ∧
    (s.oe.get p = true → t.oe.get p = false → inp.rst = true)

/-- While a command is in flight the trace ends with the micro-operations of its expansion performed so far, in order
(20_memory.md R59). -/
def State.TraceInFlight (s : State) : Prop :=
  s.busy = true →
    ((expand s.cfg s.cmdr).take (s.upc.toNat + (if s.dly then 1 else 0))).map TraceItem.op <:+ s.trace

/-- The configuration with the other `EN_STRATEGY` or `EN_ACTIVE`. -/
def withStrategy (c : Config) (st : EnStrategy) : Config := { c with enStrategy := st }

/-- The configuration with `EN_ACTIVE` at `a`. -/
def withActive (c : Config) (a : EnActive) : Config := { c with enActive := a }

/-- A micro-operation with its EN level inverted (40_pulse_controller.md R112). -/
def invertEn (u : Uop) : Uop :=
  match u with
  | .en b => .en (!b)
  | .cfgOut p => .cfgOut p
  | .rs b => .rs b
  | .data n => .data n
  | .delay t => .delay t
  | .pulse t => .pulse t

/-- The states of runs: from reset under a well-formed configuration, with any words at the host and any levels at the ports. -/
inductive Reachable : State → Prop
  | reset (c : Config) (words : List CmdWord) (ins : List Inputs) (h : c.wf = true) :
      Reachable { State.resetOf c with host := words, inputs := ins }
  | step (s t : State) (hs : Reachable s) (h : step s = .next t) : Reachable t

/-- The ports in the step that `step` takes from `s`. -/
def State.nextInputs (s : State) : Inputs := s.inputs.headD .quiet

/-- The lines after a byte sent with RS level `b`: RS at `b`, EN idle, `D` the low nibble (41_byte_transmission.md R130). -/
def linesAfterByte (c : Config) (b : Bool) (v : Byte) : Lines :=
  { Lines.off with rs := b, en := enIdle c }.setData (loNibble v)

/-- What one nibble adds to the latched stream (20_memory.md R61), with the `oe` bits at `oe` and RS at `b`. -/
def nibbleItem (oe : Lines) (b : Bool) (n : Nibble) : Latched :=
  if oe.allOn then .nibble b n else .undriven

/-- What one byte adds to the latched stream: the high nibble, then the low (20_memory.md R52, R61). -/
def byteItems (oe : Lines) (b : Bool) (v : Byte) : List Latched :=
  [nibbleItem oe b (hiNibble v), nibbleItem oe b (loNibble v)]

/-- The state in which a command other than INIT retires: word `cw`, micro-operations `us`, the byte `v` sent with RS at `b`. Every
field not named is as it was (`life`, `oe`, `dly`, `cfg`, `host`, `inputs`). -/
def State.retiredByte (s : State) (cw : CmdWord) (us : List Uop) (b : Bool) (v : Byte) : State :=
  { s with
    x := linesAfterByte s.cfg b v
    busy := false
    cmdr := cw
    upc := BitVec.ofNat 7 us.length
    outs := .quiet
    trace := s.trace ++ us.map .op
    latched := s.latched ++ byteItems s.oe b v }

/-- The state right after a command word is accepted (10_state.md R34). -/
def State.accepted (s : State) (cw : CmdWord) (l : Life) : State :=
  { s with
    life := l
    busy := true
    cmdr := cw
    upc := 0
    outs := { s.outs with cmdResp := some .accept } }

/-- The ports of a whole command: one step in which the host presents its word, then steps in which only the timing capability
acts, as many as the micro-operations `us` take. -/
def commandPorts (us : List Uop) : List Inputs :=
  Inputs.present :: List.replicate (stepsFor us) Inputs.timer

/-- Where an idle block takes a command other than INIT (10_state.md R34): `busy = dly = 0`, EN idle, and `life = Ready` if
`STRICT_INIT`. -/
def State.takesCommands (s : State) : Prop :=
  s.cfg.wf = true ∧ s.busy = false ∧ s.dly = false ∧ s.x.en = enIdle s.cfg ∧
    (s.cfg.strictInit = true → s.life = .ready)

end Sys2Proof.Machine
end

