-- ==== Sys2Proof/Certificates/Slice0/Obligations.lean ====
section
/-! DEFINITION. The statements about the model, for the provers. Each docstring names the rule of spec/ it formalises. -/

open Sys2Proof Sys2Proof.Machine

/- Encoding -/

/-- 30_encoding.md R81 (95_test_vectors.md V15): a few words and what they decode to. -/
def Obligations.SampleWordsDecode : Prop :=
  decode 0b00000000000 = .ok .init ∧ decode 0b00100000000 = .ok .clear ∧
  decode 0b01000000000 = .ok (.setcur 0) ∧ decode 0b01000000001 = .ok (.setcur 1) ∧
  decode 0b10000101000 = .ok (.sendi 0x28) ∧ decode 0b10101001000 = .ok (.sendd 0x48) ∧
  decode 0b00000000001 = .error .initArg ∧ decode 0b00100000001 = .error .clearArg ∧
  decode 0b01000000010 = .error .setcurArg ∧ decode 0b01100000000 = .error .reservedOp

/-- 30_encoding.md R81, R89, R90: every word of every well-formed instruction decodes, and together they decode to the commands
the instruction stands for; for a command that is the instruction itself. -/
def Obligations.DecodeOfEncodeIsTheCommands : Prop :=
  ∀ i : Instr, i.wf = true → (encode i).map decode = i.commands.map Except.ok

/-- 30_encoding.md R81: the other direction; a word that decodes is the one word of what it decodes to. -/
def Obligations.DecodedWordIsItsEncoding : Prop :=
  ∀ (cw : CmdWord) (i : Instr), decode cw = .ok i → encode i = [cw] ∧ i.wf = true ∧ i.commands = [i]

/-- 30_encoding.md R81, R83: the decoder accepts exactly the words of R81's table; every reserved word is rejected under the name
of its case. -/
def Obligations.LegalWordsAreExactlyTheDecoded : Prop :=
  ∀ cw : CmdWord,
    (legal cw = true ↔ ∃ i, decode cw = .ok i) ∧
    (opField cw = 0b000 ∧ argField cw ≠ 0 → decode cw = .error .initArg) ∧
    (opField cw = 0b001 ∧ argField cw ≠ 0 → decode cw = .error .clearArg) ∧
    (opField cw = 0b010 ∧ (argField cw).extractLsb' 1 7 ≠ 0 → decode cw = .error .setcurArg) ∧
    (opField cw = 0b011 ∨ opField cw = 0b110 ∨ opField cw = 0b111 → decode cw = .error .reservedOp)

/-- 30_encoding.md R85 (95_test_vectors.md V11): the initialization table's entry words, for every configuration. -/
def Obligations.InitTableEntryWords : Prop :=
  ∀ c : Config, (initTable c).map InitEntry.word =
    [0x103, 0x103, 0x103, 0x002, 0x428, 0x400 ||| c.dispctl.setWidth 11, 0x601, 0x702]

/- Reset -/

/-- 10_state.md R32, R20: every register's reset value, under every configuration; 70_reset_and_hazards.md R221: nothing is driven
and nothing starts by itself. -/
def Obligations.ResetStateValues : Prop :=
  ∀ c : Config,
    (State.resetOf c).cfg = c ∧ (State.resetOf c).x.rs = false ∧ (State.resetOf c).x.en = enIdle c ∧
    (State.resetOf c).x.data = 0 ∧ (∀ p, (State.resetOf c).oe.get p = false) ∧
    (State.resetOf c).life = .uninitialized ∧ (State.resetOf c).busy = false ∧ (State.resetOf c).dly = false ∧
    (State.resetOf c).cmdr = 0 ∧ (State.resetOf c).upc = 0 ∧ (State.resetOf c).trace = [] ∧
    (∀ p, (State.resetOf c).pad p = none) ∧
    (c.wf = true → ∀ done, cycle ⟨false, false, done⟩ (State.resetOf c) = .next (State.resetOf c))

/-- 70_reset_and_hazards.md R220, 60_exceptions.md R196 (1): with `rst` asserted the step is a reset step whatever else is
asserted, from every state; the word presented is not taken (log 15). The marker and `undriven` are 20_memory.md R59, R61; that
both lists are recorded across resets, which R59 allows, is the model's choice (log 14). -/
def Obligations.ResetStepFromEveryState : Prop :=
  ∀ (s : State) (valid done : Bool), s.cfg.wf = true →
    cycle ⟨true, valid, done⟩ s = .next
      { s with
        x := ⟨false, enIdle s.cfg, false, false, false, false⟩
        oe := ⟨false, false, false, false, false, false⟩
        life := .uninitialized
        busy := false
        dly := false
        cmdr := 0
        upc := 0
        outs := .quiet
        trace := s.trace ++ [.reset]
        latched := if s.x.en = enAct s.cfg then s.latched ++ [.undriven] else s.latched }

/- Invariants -/

/-- The invariant holds right after reset, whatever the host and the ports will do. -/
def Obligations.InvariantAtReset : Prop :=
  ∀ (c : Config) (words : List CmdWord) (ins : List Inputs), c.wf = true →
    ({ State.resetOf c with host := words, inputs := ins }).Inv

/-- 10_state.md R39, made inductive: every step keeps the invariant, from every state that has it and for all port levels. -/
def Obligations.EveryStepKeepsTheInvariant : Prop :=
  ∀ s t : State, s.Inv → step s = .next t → t.Inv

/-- 10_state.md R39 (a) to (i): they hold in every reachable state; (g) holds of every step from one. -/
def Obligations.ReachableStatesSatisfyR39 : Prop :=
  ∀ s : State, Reachable s → s.R39 ∧ ∀ t, step s = .next t → oeOnlyByInit s.nextInputs s t

/-- 10_state.md R39: the invariant gives every clause of R39, in states that no run reaches as well. -/
def Obligations.InvariantGivesR39 : Prop :=
  ∀ s : State, s.Inv → s.R39 ∧ ∀ inp t, cycle inp s = .next t → oeOnlyByInit inp s t

/-- 60_exceptions.md R190: from a state with the invariant no step stops. -/
def Obligations.StepsNeverStopUnderTheInvariant : Prop :=
  ∀ (s : State) (inp : Inputs), s.Inv → ∃ t, cycle inp s = .next t ∧ t.Inv

/-- 20_memory.md R59: while a command is in flight the trace ends with what it has performed, in the order of its expansion;
when it retires the trace ends with its whole expansion. The premise on `dly` is 10_state.md R39 (a). -/
def Obligations.TraceOfACommandIsItsExpansion : Prop :=
  ∀ (inp : Inputs) (s t : State), (s.dly = true → s.busy = true) → s.TraceInFlight → cycle inp s = .next t →
    t.TraceInFlight ∧
    (s.busy = true → inp.rst = false → t.busy = false → (expand s.cfg s.cmdr).map TraceItem.op <:+ t.trace)

/-- 00_scope.md R5, 10_state.md R27: the parameters never change, by a step or by a meaning. -/
def Obligations.ParametersNeverChange : Prop :=
  ∀ s t : State, (step s = .next t → t.cfg = s.cfg) ∧ ∀ i, exec i s = .next t → t.cfg = s.cfg

/-- 00_scope.md R6: an ill-formed configuration has no meaning; every step and every instruction is refused under that name.
That the model refuses there is its own choice (log 3). -/
def Obligations.IllFormedConfigurationIsRefused : Prop :=
  ∀ s : State, s.cfg.wf = false →
    step s = .refused .illFormedConfig ∧ ∀ i, exec i s = .refused .illFormedConfig

/- Steps -/

/-- A step of an idle block whose host presents a word that decodes to `i` is exec of `i`, the word being consumed, the port
levels of this step used up and the step-wide outputs cleared. -/
def Obligations.StepRunsTheDecodedInstruction : Prop :=
  ∀ (s : State) (i : Instr) (cw : CmdWord) (rest : List CmdWord),
    s.cfg.wf = true → s.busy = false → s.nextInputs.rst = false → s.nextInputs.cmdValid = true →
    s.host = cw :: rest → decode cw = .ok i →
    step s = exec i { s with host := rest, inputs := s.inputs.tail, outs := .quiet }

/-- The model's own loader (log 6): the state made by `withFetchWord` runs the instruction of the word in the very next step. -/
def Obligations.FetchWordRunsNext : Prop :=
  ∀ (s : State) (nbits w : Nat) (i : Instr), s.cfg.wf = true → decodeTableWord nbits w = some i →
    step (s.withFetchWord nbits w) = exec i { s with busy := false, dly := false, outs := .quiet }

/-- 10_state.md R38: while `busy = 0` and no word is presented nothing changes but the step-wide outputs; and in any step of an idle
block that is no reset every latch, every `oe` bit, the trace and the latched stream hold, and `life` holds unless a command is
accepted. -/
def Obligations.IdleBlockHoldsEverything : Prop :=
  ∀ (inp : Inputs) (s : State), s.cfg.wf = true → s.busy = false → inp.rst = false →
    (inp.cmdValid = false ∨ s.host = [] → cycle inp s = .next { s with outs := .quiet }) ∧
    ∀ t, cycle inp s = .next t →
      t.x = s.x ∧ t.oe = s.oe ∧ t.trace = s.trace ∧ t.latched = s.latched ∧ (t.busy = false → t.life = s.life)

/-- 60_exceptions.md R196 (3), 20_memory.md R64, 10_state.md R34: while `busy = 1` a word at the port is not looked at: the step is
the same without it, no word is taken, nothing is answered, and `cmdr` keeps the command in flight. -/
def Obligations.BusyBlockTakesNoWord : Prop :=
  ∀ (s : State) (rst done : Bool), s.busy = true →
    cycle ⟨rst, true, done⟩ s = cycle ⟨rst, false, done⟩ s ∧
    ∀ (valid : Bool) (t : State), cycle ⟨rst, valid, done⟩ s = .next t →
      t.host = s.host ∧ t.outs.cmdResp = none ∧ (rst = false → t.cmdr = s.cmdr)

/-- 10_state.md R34, 60_exceptions.md R196 (3): a command executed while `busy = 1` is turned away with no effect;
that it is then a step without effect is the model's reading (log 10). -/
def Obligations.CommandsWaitWhileBusy : Prop :=
  ∀ (s : State) (line : BitVec 1) (v : Byte) (m : SendMode), s.cfg.wf = true → s.busy = true →
    exec .init s = .next s ∧ exec .clear s = .next s ∧ exec (.setcur line) s = .next s ∧
    exec (.sendi v) s = .next s ∧ exec (.sendd v) s = .next s ∧ exec (.sendb v m) s = .next s

/-- 10_state.md R36, 93_implementation_defined.md U10: if the timing capability never answers and no reset comes, the block waits,
for any number of steps, and no command is accepted. -/
def Obligations.WaitsForTheTimerForEver : Prop :=
  ∀ (ins : List Inputs) (s : State), s.cfg.wf = true → s.busy = true → s.dly = true → ins ≠ [] →
    (∀ i ∈ ins, i.rst = false ∧ i.tmrDone = false) → runWith ins s = .next { s with outs := .quiet }

/-- 60_exceptions.md R195: `tmr_done` is ignored unless `dly = 1` (with `dly = 1` implying `busy = 1`, R39 (a)). -/
def Obligations.TimerDoneIgnoredUnlessAwaited : Prop :=
  ∀ (s : State) (rst valid : Bool), s.dly = false → cycle ⟨rst, valid, true⟩ s = cycle ⟨rst, valid, false⟩ s

/-- 10_state.md R35: with a command in flight and no delay running, a step that is no reset performs the one micro-operation at
`upc`, whatever the other ports show; a DELAY or PULSE leaves `upc` where it is, any other advances it. -/
def Obligations.PerformStepPerformsOneMicroOperation : Prop :=
  ∀ (s : State) (valid done : Bool) (u : Uop), s.cfg.wf = true → s.busy = true → s.dly = false →
    (expand s.cfg s.cmdr)[s.upc.toNat]? = some u →
    cycle ⟨false, valid, done⟩ s = .next
      (if u.timed then { s with outs := .quiet }.emit u else ({ s with outs := .quiet }.emit u).advance)

/-- 10_state.md R36: the timer-done step ends a DELAY with `dly` at 0, and a PULSE with EN idle as well, latching what the lines
hold; then it advances. -/
def Obligations.TimerDoneStepEndsDelayOrPulse : Prop :=
  ∀ (s : State) (valid : Bool) (t : Nat), s.cfg.wf = true → s.busy = true → s.dly = true →
    ((expand s.cfg s.cmdr)[s.upc.toNat]? = some (.delay t) →
      cycle ⟨false, valid, true⟩ s = .next { s with dly := false, outs := .quiet }.advance) ∧
    ((expand s.cfg s.cmdr)[s.upc.toNat]? = some (.pulse t) → s.x.en = enAct s.cfg →
      cycle ⟨false, valid, true⟩ s = .next
        { s with
          x := { s.x with en := enIdle s.cfg }
          dly := false
          outs := .quiet
          latched := s.latched ++ [if s.oe = Lines.on then Latched.nibble s.x.rs s.x.data else Latched.undriven] }.advance)

/-- 10_state.md R24, R35 to R37: in a step of a busy block that is no reset, `upc` keeps its value or goes up by one; the block
retires exactly when `upc` goes up to the length of the expansion, and only INIT's retirement changes `life`. -/
def Obligations.AdvanceAndRetirement : Prop :=
  ∀ (inp : Inputs) (s t : State), s.busy = true → inp.rst = false → cycle inp s = .next t →
    (t.upc = s.upc ∨ t.upc = s.upc + 1) ∧
    (t.busy = false ↔ t.upc = s.upc + 1 ∧ t.upc.toNat = (expand s.cfg s.cmdr).length) ∧
    t.life = (if t.busy = false ∧ isInit s.cmdr = true then .ready else s.life)

/-- 20_memory.md R58, R59: the effect of each micro-operation, with everything it leaves alone, from a state with EN idle where it
writes EN. -/
def Obligations.MicroOperationEffects : Prop :=
  ∀ (s : State) (p : Pin) (b : Bool) (n : Nibble) (t : Nat),
    (s.emit (.cfgOut p) = { s with oe := s.oe.set p true, trace := s.trace ++ [.op (.cfgOut p)] }) ∧
    (∀ q, (s.oe.set p true).get q = if q = p then true else s.oe.get q) ∧
    (s.emit (.rs b) = { s with x := { s.x with rs := b }, trace := s.trace ++ [.op (.rs b)] }) ∧
    (s.emit (.data n) = { s with x := ⟨s.x.rs, s.x.en, n[3], n[2], n[1], n[0]⟩, trace := s.trace ++ [.op (.data n)] }) ∧
    (s.emit (.delay t) = { s with
      dly := true, outs := ⟨s.outs.cmdResp, some ⟨false, t⟩⟩, trace := s.trace ++ [.op (.delay t)] }) ∧
    (s.x.en = enIdle s.cfg →
      s.emit (.en b) = { s with x := { s.x with en := b }, trace := s.trace ++ [.op (.en b)] } ∧
      s.emit (.pulse t) = { s with
        x := { s.x with en := enAct s.cfg }
        dly := true
        outs := ⟨s.outs.cmdResp, some ⟨true, t⟩⟩
        trace := s.trace ++ [.op (.pulse t)] })

/-- 20_memory.md R51: bit 3 of a nibble is on D7 down to bit 0 on D4; `D` reads the nibble back; RS and EN are not touched. -/
def Obligations.NibbleOnTheDataLines : Prop :=
  ∀ (l : Lines) (n : Nibble),
    (l.setData n).d7 = n[3] ∧ (l.setData n).d6 = n[2] ∧ (l.setData n).d5 = n[1] ∧ (l.setData n).d4 = n[0] ∧
    (l.setData n).data = n ∧ (l.setData n).rs = l.rs ∧ (l.setData n).en = l.en

/-- 20_memory.md R61: the latched stream grows by one item exactly in the steps in which EN goes from active to idle: the pair
(RS, D) read at that step if all six `oe` bits are 1, else `undriven`; in a reset step always `undriven`. -/
def Obligations.LatchedStreamGrowsAtTheLatchingEdge : Prop :=
  ∀ (inp : Inputs) (s t : State), cycle inp s = .next t →
    t.latched = s.latched ++
      (if s.x.en = enAct s.cfg ∧ t.x.en = enIdle s.cfg then
        [if inp.rst = false ∧ s.oe = Lines.on then .nibble s.x.rs s.x.data else .undriven]
      else [])

/-- 10_state.md R39 (f), 70_reset_and_hazards.md R231: while EN is active RS and the data lines do not change, but by reset. -/
def Obligations.LinesHeldWhileEnIsActive : Prop :=
  ∀ (inp : Inputs) (s t : State), s.Inv → s.x.en = enAct s.cfg → inp.rst = false → cycle inp s = .next t →
    t.x.rs = s.x.rs ∧ t.x.data = s.x.data

/-- 60_exceptions.md R200: the complete transition table of `life`. -/
def Obligations.LifecycleTransitions : Prop :=
  ∀ (inp : Inputs) (s t : State), s.Inv → cycle inp s = .next t →
    (inp.rst = true → t.life = .uninitialized) ∧
    (inp.rst = false → s.busy = false →
      t.life = if inp.cmdValid = true ∧ s.host.head? = some 0x000 then .initializing else s.life) ∧
    (inp.rst = false → s.busy = true →
      t.life = if s.life = .initializing ∧ t.busy = false then .ready else s.life)

/-- 10_state.md R23: a pad is `Z` while its `oe` bit is 0 and the latch otherwise, so after an INIT has retired every pad shows its
latch; on an undriven pad any level is seen. -/
def Obligations.PadsShowTheLatchesWhenReady : Prop :=
  ∀ (s : State) (p : Pin) (draw : Bool),
    (s.Inv → s.life = .ready → s.pad p = some (s.x.get p)) ∧
    (s.oe.get p = true → s.seenLevel draw p = s.x.get p) ∧
    (s.oe.get p = false → s.pad p = none ∧ s.seenLevel draw p = draw)

/- Refusals -/

/-- 60_exceptions.md R192, R197: under `STRICT_INIT` with `life` not Ready every command but INIT is answered `NotInitialized`, code
1, and nothing else changes; INIT is accepted. -/
def Obligations.NotInitializedChangesNothing : Prop :=
  ∀ (s : State) (i : Instr), s.cfg.wf = true → s.busy = false → s.cfg.strictInit = true → s.life ≠ .ready →
    (i = .clear ∨ (∃ line, i = .setcur line) ∨ (∃ v, i = .sendi v) ∨ (∃ v, i = .sendd v) ∨ ∃ v m, i = .sendb v m) →
    exec i s = .next { s with outs := { s.outs with cmdResp := some .notInitialized } } ∧
    Resp.notInitialized.code = 1 ∧ exec .init s = .next (s.accepted 0x000 .initializing)

/-- 60_exceptions.md R193, R196 (2), R197: a reserved word presented to an idle block is answered `IllegalCommand`, code 2, whatever
`life` and `STRICT_INIT` are; the word is consumed and nothing else changes. -/
def Obligations.IllegalCommandChangesNothing : Prop :=
  ∀ (s : State) (done : Bool) (cw : CmdWord) (rest : List CmdWord),
    s.cfg.wf = true → s.busy = false → s.host = cw :: rest → legal cw = false →
    cycle ⟨false, true, done⟩ s = .next
      { s with host := rest, outs := { Outs.quiet with cmdResp := some .illegalCommand } } ∧
    Resp.illegalCommand.code = 2

/-- 44_text_writer.md R180, R182: a WRLINE with a line other than 0 or 1, or a character that does not fit 8 bits, has no expansion:
it is refused under that name, which is the model's choice (log 13). -/
def Obligations.WrlineWithoutExpansionIsRefused : Prop :=
  ∀ (s : State) (text : List Nat) (line : Nat), s.cfg.wf = true → (2 ≤ line ∨ ∃ ch ∈ text, 256 ≤ ch) →
    exec (.wrline text line) s = .refused .noExpansion

/- Completion: each instruction's own effect -/

/-- 42_init_sequencer.md R145 to R147, R152: INIT is accepted by an idle block in every lifecycle state; with the timing capability
answering, its micro-operations are performed and it retires in the state of R147, having latched the twelve nibbles of R152.
Every field not named is unchanged. EN idle while idle is R39 (e). -/
def Obligations.InitCompletes : Prop :=
  ∀ s : State, s.cfg.wf = true → s.busy = false → s.dly = false → s.x.en = enIdle s.cfg →
    ∃ t, exec .init s = .next t ∧ t = s.accepted 0x000 .initializing ∧
      runTimed (stepsFor (initUops s.cfg)) t = .next
        { s with
          x := linesAfterByte s.cfg false 0x02
          oe := Lines.on
          life := .ready
          busy := false
          cmdr := 0x000
          upc := BitVec.ofNat 7 (initUops s.cfg).length
          outs := .quiet
          trace := s.trace ++ (initUops s.cfg).map .op
          latched := s.latched ++
            [.nibble false 0x3, .nibble false 0x3, .nibble false 0x3, .nibble false 0x2, .nibble false 0x2,
              .nibble false 0x8, .nibble false 0x0, .nibble false (loNibble s.cfg.dispctl), .nibble false 0x0,
              .nibble false 0x1, .nibble false 0x0, .nibble false 0x2] }

/-- 42_init_sequencer.md R151: an INIT right after a retired INIT performs the same micro-operations, latches the same stream and
ends in the same state, the ghosts apart. -/
def Obligations.RepeatedInitEndsInTheSameState : Prop :=
  ∀ s : State, s.cfg.wf = true → s.busy = false → s.dly = false → s.x.en = enIdle s.cfg →
    ∃ t u t' v tr la, exec .init s = .next t ∧ runTimed (stepsFor (initUops s.cfg)) t = .next u ∧
      exec .init u = .next t' ∧ runTimed (stepsFor (initUops s.cfg)) t' = .next v ∧
      u.trace = s.trace ++ tr ∧ u.latched = s.latched ++ la ∧
      v = { u with trace := u.trace ++ tr, latched := u.latched ++ la }

/-- 43_display_commands.md R165: CLEAR sends the byte 0x01 with RS low, then waits T_CLEAR, then retires. -/
def Obligations.ClearCompletes : Prop :=
  ∀ s : State, s.takesCommands →
    ∃ t, exec .clear s = .next t ∧ t = s.accepted 0x100 s.life ∧
      runTimed (stepsFor (clearUops s.cfg)) t = .next (s.retiredByte 0x100 (clearUops s.cfg) false 0x01)

/-- 43_display_commands.md R166, 30_encoding.md R87: SETCUR sends 0x80 for line 0 and 0xC0 for line 1, RS low. -/
def Obligations.SetcurCompletes : Prop :=
  ∀ (s : State) (line : BitVec 1), s.takesCommands →
    ∃ t, exec (.setcur line) s = .next t ∧ t = s.accepted (if line = 0 then 0x200 else 0x201) s.life ∧
      runTimed (stepsFor (setcurUops s.cfg line)) t = .next
        (s.retiredByte (if line = 0 then 0x200 else 0x201) (setcurUops s.cfg line) false (if line = 0 then 0x80 else 0xC0))

/-- 41_byte_transmission.md R131, R132, 30_encoding.md R90: SENDI sends its byte with RS low, SENDD with RS high, and SENDB is one
or the other. -/
def Obligations.ByteSendsComplete : Prop :=
  ∀ (s : State) (v : Byte), s.takesCommands →
    (∃ t, exec (.sendi v) s = .next t ∧ t = s.accepted (0x400 + v.setWidth 11) s.life ∧
      runTimed (stepsFor (sendiUops s.cfg v)) t = .next
        (s.retiredByte (0x400 + v.setWidth 11) (sendiUops s.cfg v) false v)) ∧
    (∃ t, exec (.sendd v) s = .next t ∧ t = s.accepted (0x500 + v.setWidth 11) s.life ∧
      runTimed (stepsFor (senddUops s.cfg v)) t = .next
        (s.retiredByte (0x500 + v.setWidth 11) (senddUops s.cfg v) true v)) ∧
    (∃ t, exec (.sendb v .instruction) s = .next t ∧ t = s.accepted (0x400 + v.setWidth 11) s.life ∧
      runTimed (stepsFor (sendiUops s.cfg v)) t = .next
        (s.retiredByte (0x400 + v.setWidth 11) (sendiUops s.cfg v) false v)) ∧
    (∃ t, exec (.sendb v .data) s = .next t ∧ t = s.accepted (0x500 + v.setWidth 11) s.life ∧
      runTimed (stepsFor (senddUops s.cfg v)) t = .next
        (s.retiredByte (0x500 + v.setWidth 11) (senddUops s.cfg v) true v))

/-- 40_pulse_controller.md R110, R111: SEND_NIBBLE puts `n` on the data lines, pulses EN once, latches one item and leaves everything
else alone. Log 11: as a meaning of its own it is the list performed to its end. -/
def Obligations.SendNibbleCompletes : Prop :=
  ∀ (s : State) (n : Nibble), s.cfg.wf = true → s.busy = true → s.dly = false → s.x.en = enIdle s.cfg →
    exec (.sendNibble n) s = .next
      { s with
        x := s.x.setData n
        upc := s.upc + (match s.cfg.enStrategy with | .directToggle => 7 | .timerPulse => 4)
        outs := .quiet
        trace := s.trace ++ (sendNibbleUops s.cfg n).map .op
        latched := s.latched ++ [if s.oe = Lines.on then .nibble s.x.rs n else .undriven] }

/-- 41_byte_transmission.md R130: SEND_BYTE sets RS, sends the high nibble, then the low nibble, and leaves everything else alone.
Log 11: as a meaning of its own it is the list performed to its end. -/
def Obligations.SendByteCompletes : Prop :=
  ∀ (s : State) (v : Byte) (m : SendMode), s.cfg.wf = true → s.busy = true → s.dly = false → s.x.en = enIdle s.cfg →
    exec (.sendByte v m) s = .next
      { s with
        x := linesAfterByte s.cfg (rsLevel m) v
        upc := s.upc + (match s.cfg.enStrategy with | .directToggle => 15 | .timerPulse => 9)
        outs := .quiet
        trace := s.trace ++ (sendByteUops s.cfg v m).map .op
        latched := s.latched ++ byteItems s.oe (rsLevel m) v }

/-- 10_state.md R25, R35, R38: where the block may not perform, an internal operation performs nothing, the
model's choice of its meaning (log 11). -/
def Obligations.InternalOperationsNeedABusyBlock : Prop :=
  ∀ (s : State) (n : Nibble) (v : Byte) (m : SendMode), s.cfg.wf = true → (s.busy = false ∨ s.dly = true) →
    exec (.sendNibble n) s = .next s ∧ exec (.sendByte v m) s = .next s

/-- 30_encoding.md R91: an internal operation is what the block performs. Where the rest of the expansion in flight begins with the
list of SEND_NIBBLE or SEND_BYTE and does not end with it, the block's own steps, with the timing capability answering, end in the
state the operation's meaning gives (log 11). -/
def Obligations.InternalOperationsAreTheBlocksSteps : Prop :=
  ∀ (s : State) (i : Instr) (rest : List Uop), s.cfg.wf = true → s.busy = true → s.dly = false →
    ((∃ n, i = .sendNibble n) ∨ ∃ v m, i = .sendByte v m) →
    (expand s.cfg s.cmdr).drop s.upc.toNat = uopsOf s.cfg i ++ rest → rest ≠ [] →
    ∃ t, exec i s = .next t ∧ runTimed (stepsFor (uopsOf s.cfg i)) s = .next t

/-- 10_state.md R35 to R37: with the timing capability answering, a command in flight performs the rest of its expansion, in order,
each to its end, and retires. -/
def Obligations.BlockPerformsTheRestAndRetires : Prop :=
  ∀ s : State, s.cfg.wf = true → s.busy = true → s.dly = false → s.upc.toNat < (expand s.cfg s.cmdr).length →
    runTimed (stepsFor ((expand s.cfg s.cmdr).drop s.upc.toNat)) s =
      .next (s.runUops ((expand s.cfg s.cmdr).drop s.upc.toNat)).retire

/-- 60_exceptions.md R207, 70_reset_and_hazards.md R237: if the timing capability answers and no reset comes, every command in flight
retires, within 147 steps. -/
def Obligations.EveryCommandRetires : Prop :=
  ∀ s : State, s.Inv → s.busy = true →
    ∃ n t, n ≤ 147 ∧ runTimed n s = .next t ∧ t.busy = false ∧ t.dly = false ∧ t.cmdr = s.cmdr ∧ t.Inv

/-- 44_text_writer.md R180: WRLINE puts its `n + 1` words at the head of the host's words and changes no part of the block. That
exec of a pseudo-instruction acts on the host's words is the model's choice (log 12). -/
def Obligations.WrlineExpandsIntoItsWords : Prop :=
  ∀ (s : State) (text : List Nat) (line : Nat), s.cfg.wf = true → line < 2 → (∀ ch ∈ text, ch < 256) →
    exec (.wrline text line) s = .next
      { s with host := BitVec.ofNat 11 (0x200 + line) :: text.map (fun ch => BitVec.ofNat 11 (0x500 + ch)) ++ s.host }

/-- 44_text_writer.md R180, R181: the words of a WRLINE, each presented when the block is ready, send the cursor byte and then every
character with RS high, in order, without wrap or truncation. That exec of WRLINE acts on the host's words is the model's choice
(log 12). -/
def Obligations.WrlineSendsEveryCharacter : Prop :=
  ∀ (s : State) (text : List Nat) (line : Nat), s.takesCommands → line < 2 → (∀ ch ∈ text, ch < 256) →
    ∃ t u, exec (.wrline text line) s = .next t ∧
      runWith (commandPorts (setcurUops s.cfg (BitVec.ofNat 1 line)) ++
        text.flatMap (fun ch => commandPorts (senddUops s.cfg (charCode ch)))) t = .next u ∧
      u.host = s.host ∧ u.busy = false ∧ u.dly = false ∧ u.life = s.life ∧ u.oe = s.oe ∧
      u.x = (match text.getLast? with
        | none => linesAfterByte s.cfg false (if line = 0 then 0x80 else 0xC0)
        | some ch => linesAfterByte s.cfg true (BitVec.ofNat 8 ch)) ∧
      u.trace = s.trace ++ (wrlineUops s.cfg text line).map .op ∧
      u.latched = s.latched ++ byteItems s.oe false (if line = 0 then 0x80 else 0xC0) ++
        text.flatMap (fun ch => byteItems s.oe true (BitVec.ofNat 8 ch))

/-- 70_reset_and_hazards.md R238, when and how a run ends. How: a run that is over ends with every word presented and the block idle,
no reset having struck; a run that is aborted ends in the reset state. When: let the steps `a` hold no reset and lead to `u`, with
work left in every state before `u`. If no work is left in `u` the run is over there; if work is left, a reset step taken next
aborts it, and if no step follows it is still running. That a reset after the end of a run does not abort it is log 24, that the marker is
recorded is log 14. -/
def Obligations.ProgramRunIsOverOrAborted : Prop :=
  ∀ (ins : List Inputs) (s t : State),
    (runProgram ins s = (.over, t) → t.host = [] ∧ t.busy = false ∧ ∃ us : List Uop, t.trace = s.trace ++ us.map .op) ∧
    (runProgram ins s = (.aborted, t) →
      t.x = ⟨false, enIdle s.cfg, false, false, false, false⟩ ∧ t.oe = Lines.off ∧ t.life = .uninitialized ∧
      t.busy = false ∧ t.dly = false ∧ t.cmdr = 0 ∧ t.upc = 0 ∧ t.trace.getLast? = some .reset) ∧
    ∀ (a b : List Inputs) (u : State), (∀ i ∈ a, i.rst = false) →
      (∀ k < a.length, ∀ v, runWith (a.take k) s = .next v → ¬(v.host = [] ∧ v.busy = false)) → runWith a s = .next u →
      (u.host = [] ∧ u.busy = false → runProgram (a ++ b) s = (.over, u)) ∧
      (¬(u.host = [] ∧ u.busy = false) →
        (∀ i v, i.rst = true → cycle i u = .next v → runProgram (a ++ i :: b) s = (.aborted, v)) ∧
        runProgram a s = (.running, u))

/-- 60_exceptions.md R194: with `STRICT_INIT` false a command before INIT is accepted and performed on undriven pads: the latched
stream gets `undriven` markers, `life` and the `oe` bits are not touched. -/
def Obligations.CommandBeforeInitRunsUndriven : Prop :=
  ∀ (c : Config) (i : Instr), c.wf = true → c.strictInit = false →
    (i = .clear ∨ (∃ line, i = .setcur line) ∨ (∃ v, i = .sendi v) ∨ ∃ v, i = .sendd v) →
    ∃ t u, exec i (State.resetOf c) = .next t ∧ t.outs.cmdResp = some .accept ∧ t.busy = true ∧
      runTimed (stepsFor (uopsOf c i)) t = .next u ∧ u.busy = false ∧ u.life = .uninitialized ∧ u.oe = Lines.off ∧
      u.trace = (uopsOf c i).map .op ∧ u.latched = [.undriven, .undriven]

/- Properties of the expansions -/

/-- 40_pulse_controller.md R113, 41_byte_transmission.md R134, 42_init_sequencer.md R148: the three nested state machines, read off
their tables, perform at every `upc` exactly the micro-operation of the flat expansion, under both strategies. -/
def Obligations.NestedMachinesAgreeWithTheExpansion : Prop :=
  ∀ (c : Config) (cw : CmdWord) (i : Instr), decode cw = .ok i → ∀ k : Nat, (expand c cw)[k]? = nestedUop c i k

/-- 42_init_sequencer.md R148: the lifecycle's Initializing is the union of `I_CFG` to `I_E7`, and a step in which INIT retires ends
in `done`. -/
def Obligations.InitializerStatesFollowTheLifecycle : Prop :=
  ∀ s : State, s.Inv →
    (s.life = .initializing ↔ ∃ i, s.initState = some i ∧ i ≠ .done) ∧
    ∀ (inp : Inputs) (t : State), cycle inp s = .next t → s.life = .initializing → t.life = .ready → t.initState = some .done

/-- 40_pulse_controller.md R111, 20_memory.md R60: from EN idle, TimerPulse and DirectToggle give every instruction the same
waveform. -/
def Obligations.BothStrategiesHaveOneWaveform : Prop :=
  ∀ (c : Config) (i : Instr) (x oe : Lines), x.en = enIdle c →
    waveform c x oe (uopsOf (withStrategy c .timerPulse) i) = waveform c x oe (uopsOf (withStrategy c .directToggle) i)

/-- 40_pulse_controller.md R111, 93_implementation_defined.md U8: from EN idle, both strategies latch the same stream and leave the
same lines, for every instruction. -/
def Obligations.BothStrategiesLatchOneStream : Prop :=
  ∀ (s : State) (i : Instr), s.x.en = enIdle s.cfg →
    let d := { s with cfg := withStrategy s.cfg .directToggle }.runUops (uopsOf (withStrategy s.cfg .directToggle) i)
    let p := { s with cfg := withStrategy s.cfg .timerPulse }.runUops (uopsOf (withStrategy s.cfg .timerPulse) i)
    p.latched = d.latched ∧ p.x = d.x ∧ p.oe = d.oe

/-- 40_pulse_controller.md R112: `EN_ACTIVE = Low` inverts every EN level of every expansion and the reset value of `x[EN]`, and
nothing else. -/
def Obligations.PolarityInvertsEnOnly : Prop :=
  ∀ (c : Config) (i : Instr),
    uopsOf (withActive c .low) i = (uopsOf (withActive c .high) i).map invertEn ∧
    (State.resetOf (withActive c .low)).x = { (State.resetOf (withActive c .high)).x with en := true }

/-- 40_pulse_controller.md R114 (b) to (e): under either strategy a nibble is DATA, then EN idle for T_EN_SETUP, EN active for
T_EN_WIDTH, EN idle for T_EN_HOLD, one pulse, each time at least PW_MIN. -/
def Obligations.NibblePulseContract : Prop :=
  ∀ (c : Config) (n : Nibble), c.wf = true →
    ∃ setup, explode c (sendNibbleUops c n) =
        .data n :: setup ++ [.en (enAct c), .delay c.tEnWidth, .en (enIdle c), .delay c.tEnHold] ∧
      (∀ u ∈ setup, u = .en (enIdle c) ∨ u = .delay c.tEnSetup) ∧ leastTime setup = c.tEnSetup ∧
      enPulses c (sendNibbleUops c n) = 1 ∧
      c.pwMin ≤ c.tEnSetup ∧ c.pwMin ≤ c.tEnWidth ∧ c.pwMin ≤ c.tEnHold

/-- 41_byte_transmission.md R133: RS comes first and is set once; two EN pulses; the high nibble before the low; the two nibbles
reassemble to the byte. -/
def Obligations.SendByteOrder : Prop :=
  ∀ (c : Config) (v : Byte) (m : SendMode), ∃ hi lo,
    sendByteUops c v m = .rs (rsLevel m) :: (.data (hiNibble v) :: hi ++ .data (loNibble v) :: lo) ∧
    (∀ u ∈ hi ++ lo, u.writesLines = false) ∧ enPulses c hi = 1 ∧ enPulses c lo = 1 ∧
    hiNibble v ++ loNibble v = v ∧ (hiNibble v).toNat = v.toNat / 16 ∧ (loNibble v).toNat = v.toNat % 16

/-- 20_memory.md R61, 41_byte_transmission.md R130, R133 (e): what byte transfers with all `oe` bits 1 latch is, pair by pair, the
bytes sent. -/
def Obligations.LatchedBytesAreTheBytesSent : Prop :=
  ∀ bytes : List (Bool × Byte), latchedBytes (bytes.flatMap (fun b => byteItems Lines.on b.1 b.2)) = some bytes

/-- 43_display_commands.md R167: in CLEAR and in INIT the latching of the low nibble of 0x01 is followed by delays of at least
T_EN_HOLD + T_CLEAR, at least 1600 µs, before any other micro-operation. -/
def Obligations.ClearIsFollowedByItsDelay : Prop :=
  ∀ (c : Config) (us : List Uop), c.wf = true → (us = clearUops c ∨ us = initUops c) →
    ∃ before edge after,
      us = before ++ sendByteUops c 0x01 .instruction ++ [.delay c.tClear] ++ after ∧
      (∃ body, sendByteUops c 0x01 .instruction = body ++ [edge, .delay c.tEnHold]) ∧
      (edge = .en (enIdle c) ∨ edge = .pulse c.tEnWidth) ∧
      leastTime [.delay c.tEnHold, .delay c.tClear] = c.tEnHold + c.tClear ∧ 1600 ≤ c.tClear

/-- 70_reset_and_hazards.md R236: the counts of micro-operations and EN pulses and the lower bounds of every command, under both
strategies, WRLINE of any length included. -/
def Obligations.CountsAndLeastDurations : Prop :=
  ∀ (c : Config) (n : Nibble) (v : Byte) (line : BitVec 1) (text : List Nat) (l : Nat),
    let direct := decide (c.enStrategy = .directToggle)
    ((sendNibbleUops c n).length = (if direct then 7 else 4) ∧ enPulses c (sendNibbleUops c n) = 1 ∧
      leastTime (sendNibbleUops c n) = tNib c) ∧
    ((sendiUops c v).length = (if direct then 15 else 9) ∧ enPulses c (sendiUops c v) = 2 ∧
      leastTime (sendiUops c v) = 2 * tNib c) ∧
    ((senddUops c v).length = (if direct then 15 else 9) ∧ enPulses c (senddUops c v) = 2 ∧
      leastTime (senddUops c v) = 2 * tNib c) ∧
    ((setcurUops c line).length = (if direct then 15 else 9) ∧ enPulses c (setcurUops c line) = 2 ∧
      leastTime (setcurUops c line) = 2 * tNib c) ∧
    ((clearUops c).length = (if direct then 16 else 10) ∧ enPulses c (clearUops c) = 2 ∧
      leastTime (clearUops c) = 2 * tNib c + c.tClear) ∧
    ((initUops c).length = (if direct then 103 else 67) ∧ enPulses c (initUops c) = 12 ∧
      leastTime (initUops c) = 12 * tNib c + 3 * c.tReset + 3 * c.tStep + c.tClear + c.tHome) ∧
    ((wrlineUops c text l).length = (if direct then 15 else 9) * (text.length + 1) ∧
      enPulses c (wrlineUops c text l) = 2 * (text.length + 1) ∧
      leastTime (wrlineUops c text l) = 2 * (text.length + 1) * tNib c)
end

