-- ==== Sys2Proof/Laws/Lines.lean ====
section
/-! SUPPORT. Lemmas about one bit per pin (spec/10_state.md R21, R22; 20_memory.md R51) and the EN levels (00_scope.md R5). -/

namespace Sys2Proof.Machine

/-- `D` reads back the nibble written. -/
theorem Lines.data_setData (l : Lines) (n : Nibble) : (l.setData n).data = n := by
  obtain ⟨a,b,c,d,e,f⟩ := l
  simp only [Lines.setData, Lines.data]
  revert n; decide

/-- The last nibble written stands. -/
theorem Lines.setData_setData (l : Lines) (n m : Nibble) : (l.setData n).setData m = l.setData m := rfl

/-- `allOn` in the words of 20_memory.md R61. -/
theorem Lines.allOn_iff (l : Lines) : l.allOn = true ↔ l = Lines.on := by
  obtain ⟨a,b,c,d,e,f⟩ := l
  simp [Lines.allOn, Lines.on, and_assoc]

/-- Setting one bit. -/
theorem Lines.get_set (l : Lines) (p q : Pin) : (l.set p true).get q = (if q = p then true else l.get q) := by
  cases p <;> cases q <;> simp [Lines.set, Lines.get]

/-- The two EN levels differ (00_scope.md R5). -/
theorem enIdle_ne_enAct (c : Config) : enIdle c ≠ enAct c := by unfold enIdle enAct; cases c.enActive <;> simp

end Sys2Proof.Machine
end

