-- ==== Sys2Proof/Laws/State.lean ====
section
/-! SUPPORT. One lemma per field per shared operation: what the operation leaves alone, and the plain value it gives. -/

namespace Sys2Proof.Machine

@[simp] theorem State.clearOuts_cfg (s : State) : s.clearOuts.cfg = s.cfg := rfl
@[simp] theorem State.clearOuts_x (s : State) : s.clearOuts.x = s.x := rfl
@[simp] theorem State.clearOuts_oe (s : State) : s.clearOuts.oe = s.oe := rfl
@[simp] theorem State.clearOuts_life (s : State) : s.clearOuts.life = s.life := rfl
@[simp] theorem State.clearOuts_busy (s : State) : s.clearOuts.busy = s.busy := rfl
@[simp] theorem State.clearOuts_dly (s : State) : s.clearOuts.dly = s.dly := rfl
@[simp] theorem State.clearOuts_cmdr (s : State) : s.clearOuts.cmdr = s.cmdr := rfl
@[simp] theorem State.clearOuts_upc (s : State) : s.clearOuts.upc = s.upc := rfl
@[simp] theorem State.clearOuts_host (s : State) : s.clearOuts.host = s.host := rfl
@[simp] theorem State.clearOuts_inputs (s : State) : s.clearOuts.inputs = s.inputs := rfl
@[simp] theorem State.clearOuts_trace (s : State) : s.clearOuts.trace = s.trace := rfl
@[simp] theorem State.clearOuts_latched (s : State) : s.clearOuts.latched = s.latched := rfl
@[simp] theorem State.clearOuts_outs (s : State) : s.clearOuts.outs = .quiet := rfl

@[simp] theorem State.nextUpc_cfg (s : State) : s.nextUpc.cfg = s.cfg := rfl
@[simp] theorem State.nextUpc_x (s : State) : s.nextUpc.x = s.x := rfl
@[simp] theorem State.nextUpc_oe (s : State) : s.nextUpc.oe = s.oe := rfl
@[simp] theorem State.nextUpc_life (s : State) : s.nextUpc.life = s.life := rfl
@[simp] theorem State.nextUpc_busy (s : State) : s.nextUpc.busy = s.busy := rfl
@[simp] theorem State.nextUpc_dly (s : State) : s.nextUpc.dly = s.dly := rfl
@[simp] theorem State.nextUpc_cmdr (s : State) : s.nextUpc.cmdr = s.cmdr := rfl
@[simp] theorem State.nextUpc_host (s : State) : s.nextUpc.host = s.host := rfl
@[simp] theorem State.nextUpc_inputs (s : State) : s.nextUpc.inputs = s.inputs := rfl
@[simp] theorem State.nextUpc_outs (s : State) : s.nextUpc.outs = s.outs := rfl
@[simp] theorem State.nextUpc_trace (s : State) : s.nextUpc.trace = s.trace := rfl
@[simp] theorem State.nextUpc_latched (s : State) : s.nextUpc.latched = s.latched := rfl
@[simp] theorem State.nextUpc_upc (s : State) : s.nextUpc.upc = s.upc + 1 := rfl

@[simp] theorem State.writeEn_cfg (s : State) (b : Bool) : (s.writeEn b).cfg = s.cfg := by unfold State.writeEn; split <;> rfl
@[simp] theorem State.writeEn_oe (s : State) (b : Bool) : (s.writeEn b).oe = s.oe := by unfold State.writeEn; split <;> rfl
@[simp] theorem State.writeEn_life (s : State) (b : Bool) : (s.writeEn b).life = s.life := by unfold State.writeEn; split <;> rfl
@[simp] theorem State.writeEn_busy (s : State) (b : Bool) : (s.writeEn b).busy = s.busy := by unfold State.writeEn; split <;> rfl
@[simp] theorem State.writeEn_dly (s : State) (b : Bool) : (s.writeEn b).dly = s.dly := by unfold State.writeEn; split <;> rfl
@[simp] theorem State.writeEn_cmdr (s : State) (b : Bool) : (s.writeEn b).cmdr = s.cmdr := by unfold State.writeEn; split <;> rfl
@[simp] theorem State.writeEn_upc (s : State) (b : Bool) : (s.writeEn b).upc = s.upc := by unfold State.writeEn; split <;> rfl
@[simp] theorem State.writeEn_host (s : State) (b : Bool) : (s.writeEn b).host = s.host := by unfold State.writeEn; split <;> rfl
@[simp] theorem State.writeEn_inputs (s : State) (b : Bool) : (s.writeEn b).inputs = s.inputs := by unfold State.writeEn; split <;> rfl
@[simp] theorem State.writeEn_outs (s : State) (b : Bool) : (s.writeEn b).outs = s.outs := by unfold State.writeEn; split <;> rfl
@[simp] theorem State.writeEn_trace (s : State) (b : Bool) : (s.writeEn b).trace = s.trace := by unfold State.writeEn; split <;> rfl
@[simp] theorem State.writeEn_x (s : State) (b : Bool) : (s.writeEn b).x = { s.x with en := b } := by unfold State.writeEn; split <;> rfl

@[simp] theorem State.startTimer_cfg (s : State) (p : Bool) (t : Nat) : (s.startTimer p t).cfg = s.cfg := by rfl
@[simp] theorem State.startTimer_x (s : State) (p : Bool) (t : Nat) : (s.startTimer p t).x = s.x := by rfl
@[simp] theorem State.startTimer_oe (s : State) (p : Bool) (t : Nat) : (s.startTimer p t).oe = s.oe := by rfl
@[simp] theorem State.startTimer_life (s : State) (p : Bool) (t : Nat) : (s.startTimer p t).life = s.life := by rfl
@[simp] theorem State.startTimer_busy (s : State) (p : Bool) (t : Nat) : (s.startTimer p t).busy = s.busy := by rfl
@[simp] theorem State.startTimer_cmdr (s : State) (p : Bool) (t : Nat) : (s.startTimer p t).cmdr = s.cmdr := by rfl
@[simp] theorem State.startTimer_upc (s : State) (p : Bool) (t : Nat) : (s.startTimer p t).upc = s.upc := by rfl
@[simp] theorem State.startTimer_host (s : State) (p : Bool) (t : Nat) : (s.startTimer p t).host = s.host := by rfl
@[simp] theorem State.startTimer_inputs (s : State) (p : Bool) (t : Nat) : (s.startTimer p t).inputs = s.inputs := by rfl
@[simp] theorem State.startTimer_trace (s : State) (p : Bool) (t : Nat) : (s.startTimer p t).trace = s.trace := by rfl
@[simp] theorem State.startTimer_latched (s : State) (p : Bool) (t : Nat) : (s.startTimer p t).latched = s.latched := by rfl
@[simp] theorem State.startTimer_dly (s : State) (p : Bool) (t : Nat) : (s.startTimer p t).dly = true := by rfl

@[simp] theorem State.effect_cfg (s : State) (u : Uop) : (s.effect u).cfg = s.cfg := by cases u <;> simp [State.effect]
@[simp] theorem State.effect_life (s : State) (u : Uop) : (s.effect u).life = s.life := by cases u <;> simp [State.effect]
@[simp] theorem State.effect_busy (s : State) (u : Uop) : (s.effect u).busy = s.busy := by cases u <;> simp [State.effect]
@[simp] theorem State.effect_cmdr (s : State) (u : Uop) : (s.effect u).cmdr = s.cmdr := by cases u <;> simp [State.effect]
@[simp] theorem State.effect_upc (s : State) (u : Uop) : (s.effect u).upc = s.upc := by cases u <;> simp [State.effect]
@[simp] theorem State.effect_host (s : State) (u : Uop) : (s.effect u).host = s.host := by cases u <;> simp [State.effect]
@[simp] theorem State.effect_inputs (s : State) (u : Uop) : (s.effect u).inputs = s.inputs := by cases u <;> simp [State.effect]
@[simp] theorem State.effect_trace (s : State) (u : Uop) : (s.effect u).trace = s.trace := by cases u <;> simp [State.effect]

@[simp] theorem State.emit_cfg (s : State) (u : Uop) : (s.emit u).cfg = s.cfg := by simp [State.emit]
@[simp] theorem State.emit_life (s : State) (u : Uop) : (s.emit u).life = s.life := by simp [State.emit]
@[simp] theorem State.emit_busy (s : State) (u : Uop) : (s.emit u).busy = s.busy := by simp [State.emit]
@[simp] theorem State.emit_cmdr (s : State) (u : Uop) : (s.emit u).cmdr = s.cmdr := by simp [State.emit]
@[simp] theorem State.emit_upc (s : State) (u : Uop) : (s.emit u).upc = s.upc := by simp [State.emit]
@[simp] theorem State.emit_host (s : State) (u : Uop) : (s.emit u).host = s.host := by simp [State.emit]
@[simp] theorem State.emit_inputs (s : State) (u : Uop) : (s.emit u).inputs = s.inputs := by simp [State.emit]
@[simp] theorem State.emit_trace (s : State) (u : Uop) : (s.emit u).trace = s.trace ++ [.op u] := by simp [State.emit]

@[simp] theorem State.endTimer_cfg (s : State) (u : Uop) : (s.endTimer u).cfg = s.cfg := by cases u <;> simp [State.endTimer]
@[simp] theorem State.endTimer_oe (s : State) (u : Uop) : (s.endTimer u).oe = s.oe := by cases u <;> simp [State.endTimer]
@[simp] theorem State.endTimer_life (s : State) (u : Uop) : (s.endTimer u).life = s.life := by cases u <;> simp [State.endTimer]
@[simp] theorem State.endTimer_busy (s : State) (u : Uop) : (s.endTimer u).busy = s.busy := by cases u <;> simp [State.endTimer]
@[simp] theorem State.endTimer_cmdr (s : State) (u : Uop) : (s.endTimer u).cmdr = s.cmdr := by cases u <;> simp [State.endTimer]
@[simp] theorem State.endTimer_upc (s : State) (u : Uop) : (s.endTimer u).upc = s.upc := by cases u <;> simp [State.endTimer]
@[simp] theorem State.endTimer_host (s : State) (u : Uop) : (s.endTimer u).host = s.host := by cases u <;> simp [State.endTimer]
@[simp] theorem State.endTimer_inputs (s : State) (u : Uop) : (s.endTimer u).inputs = s.inputs := by cases u <;> simp [State.endTimer]
@[simp] theorem State.endTimer_outs (s : State) (u : Uop) : (s.endTimer u).outs = s.outs := by cases u <;> simp [State.endTimer]
@[simp] theorem State.endTimer_trace (s : State) (u : Uop) : (s.endTimer u).trace = s.trace := by cases u <;> simp [State.endTimer]
@[simp] theorem State.endTimer_dly (s : State) (u : Uop) : (s.endTimer u).dly = false := by cases u <;> simp [State.endTimer]

@[simp] theorem State.retire_cfg (s : State) : (s.retire).cfg = s.cfg := by unfold State.retire; split <;> rfl
@[simp] theorem State.retire_x (s : State) : (s.retire).x = s.x := by unfold State.retire; split <;> rfl
@[simp] theorem State.retire_oe (s : State) : (s.retire).oe = s.oe := by unfold State.retire; split <;> rfl
@[simp] theorem State.retire_dly (s : State) : (s.retire).dly = s.dly := by unfold State.retire; split <;> rfl
@[simp] theorem State.retire_cmdr (s : State) : (s.retire).cmdr = s.cmdr := by unfold State.retire; split <;> rfl
@[simp] theorem State.retire_upc (s : State) : (s.retire).upc = s.upc := by unfold State.retire; split <;> rfl
@[simp] theorem State.retire_host (s : State) : (s.retire).host = s.host := by unfold State.retire; split <;> rfl
@[simp] theorem State.retire_inputs (s : State) : (s.retire).inputs = s.inputs := by unfold State.retire; split <;> rfl
@[simp] theorem State.retire_outs (s : State) : (s.retire).outs = s.outs := by unfold State.retire; split <;> rfl
@[simp] theorem State.retire_trace (s : State) : (s.retire).trace = s.trace := by unfold State.retire; split <;> rfl
@[simp] theorem State.retire_latched (s : State) : (s.retire).latched = s.latched := by unfold State.retire; split <;> rfl
@[simp] theorem State.retire_busy (s : State) : (s.retire).busy = false := by unfold State.retire; split <;> rfl
@[simp] theorem State.retire_life (s : State) : (s.retire).life = (if isInit s.cmdr then .ready else s.life) := by unfold State.retire; split <;> rfl

@[simp] theorem State.advance_cfg (s : State) : (s.advance).cfg = s.cfg := by unfold State.advance; split <;> simp
@[simp] theorem State.advance_x (s : State) : (s.advance).x = s.x := by unfold State.advance; split <;> simp
@[simp] theorem State.advance_oe (s : State) : (s.advance).oe = s.oe := by unfold State.advance; split <;> simp
@[simp] theorem State.advance_dly (s : State) : (s.advance).dly = s.dly := by unfold State.advance; split <;> simp
@[simp] theorem State.advance_cmdr (s : State) : (s.advance).cmdr = s.cmdr := by unfold State.advance; split <;> simp
@[simp] theorem State.advance_host (s : State) : (s.advance).host = s.host := by unfold State.advance; split <;> simp
@[simp] theorem State.advance_inputs (s : State) : (s.advance).inputs = s.inputs := by unfold State.advance; split <;> simp
@[simp] theorem State.advance_outs (s : State) : (s.advance).outs = s.outs := by unfold State.advance; split <;> simp
@[simp] theorem State.advance_trace (s : State) : (s.advance).trace = s.trace := by unfold State.advance; split <;> simp
@[simp] theorem State.advance_latched (s : State) : (s.advance).latched = s.latched := by unfold State.advance; split <;> simp
@[simp] theorem State.advance_upc (s : State) : (s.advance).upc = s.upc + 1 := by unfold State.advance; split <;> simp

@[simp] theorem State.raise_cfg (s : State) (e : Resp) : (s.raise e).cfg = s.cfg := by rfl
@[simp] theorem State.raise_x (s : State) (e : Resp) : (s.raise e).x = s.x := by rfl
@[simp] theorem State.raise_oe (s : State) (e : Resp) : (s.raise e).oe = s.oe := by rfl
@[simp] theorem State.raise_life (s : State) (e : Resp) : (s.raise e).life = s.life := by rfl
@[simp] theorem State.raise_busy (s : State) (e : Resp) : (s.raise e).busy = s.busy := by rfl
@[simp] theorem State.raise_dly (s : State) (e : Resp) : (s.raise e).dly = s.dly := by rfl
@[simp] theorem State.raise_cmdr (s : State) (e : Resp) : (s.raise e).cmdr = s.cmdr := by rfl
@[simp] theorem State.raise_upc (s : State) (e : Resp) : (s.raise e).upc = s.upc := by rfl
@[simp] theorem State.raise_host (s : State) (e : Resp) : (s.raise e).host = s.host := by rfl
@[simp] theorem State.raise_inputs (s : State) (e : Resp) : (s.raise e).inputs = s.inputs := by rfl
@[simp] theorem State.raise_trace (s : State) (e : Resp) : (s.raise e).trace = s.trace := by rfl
@[simp] theorem State.raise_latched (s : State) (e : Resp) : (s.raise e).latched = s.latched := by rfl
@[simp] theorem State.raise_outs (s : State) (e : Resp) : (s.raise e).outs = { s.outs with cmdResp := some e } := by rfl

@[simp] theorem State.take_cfg (s : State) (w : CmdWord) : (s.take w).cfg = s.cfg := by rfl
@[simp] theorem State.take_x (s : State) (w : CmdWord) : (s.take w).x = s.x := by rfl
@[simp] theorem State.take_oe (s : State) (w : CmdWord) : (s.take w).oe = s.oe := by rfl
@[simp] theorem State.take_life (s : State) (w : CmdWord) : (s.take w).life = s.life := by rfl
@[simp] theorem State.take_dly (s : State) (w : CmdWord) : (s.take w).dly = s.dly := by rfl
@[simp] theorem State.take_host (s : State) (w : CmdWord) : (s.take w).host = s.host := by rfl
@[simp] theorem State.take_inputs (s : State) (w : CmdWord) : (s.take w).inputs = s.inputs := by rfl
@[simp] theorem State.take_trace (s : State) (w : CmdWord) : (s.take w).trace = s.trace := by rfl
@[simp] theorem State.take_latched (s : State) (w : CmdWord) : (s.take w).latched = s.latched := by rfl
@[simp] theorem State.take_busy (s : State) (w : CmdWord) : (s.take w).busy = true := by rfl
@[simp] theorem State.take_cmdr (s : State) (w : CmdWord) : (s.take w).cmdr = w := by rfl
@[simp] theorem State.take_upc (s : State) (w : CmdWord) : (s.take w).upc = 0 := by rfl

@[simp] theorem State.resetStep_cfg (s : State) : (s.resetStep).cfg = s.cfg := by rfl
@[simp] theorem State.resetStep_host (s : State) : (s.resetStep).host = s.host := by rfl
@[simp] theorem State.resetStep_inputs (s : State) : (s.resetStep).inputs = s.inputs := by rfl
@[simp] theorem State.resetStep_x (s : State) : (s.resetStep).x = { Lines.off with en := enIdle s.cfg } := by rfl
@[simp] theorem State.resetStep_oe (s : State) : (s.resetStep).oe = Lines.off := by rfl
@[simp] theorem State.resetStep_life (s : State) : (s.resetStep).life = .uninitialized := by rfl
@[simp] theorem State.resetStep_busy (s : State) : (s.resetStep).busy = false := by rfl
@[simp] theorem State.resetStep_dly (s : State) : (s.resetStep).dly = false := by rfl
@[simp] theorem State.resetStep_cmdr (s : State) : (s.resetStep).cmdr = 0 := by rfl
@[simp] theorem State.resetStep_upc (s : State) : (s.resetStep).upc = 0 := by rfl
@[simp] theorem State.resetStep_trace (s : State) : (s.resetStep).trace = s.trace ++ [.reset] := by rfl

@[simp] theorem State.runUop_cfg (s : State) (u : Uop) : (s.runUop u).cfg = s.cfg := by unfold State.runUop; split <;> simp
@[simp] theorem State.runUop_life (s : State) (u : Uop) : (s.runUop u).life = s.life := by unfold State.runUop; split <;> simp
@[simp] theorem State.runUop_busy (s : State) (u : Uop) : (s.runUop u).busy = s.busy := by unfold State.runUop; split <;> simp
@[simp] theorem State.runUop_cmdr (s : State) (u : Uop) : (s.runUop u).cmdr = s.cmdr := by unfold State.runUop; split <;> simp
@[simp] theorem State.runUop_host (s : State) (u : Uop) : (s.runUop u).host = s.host := by unfold State.runUop; split <;> simp
@[simp] theorem State.runUop_inputs (s : State) (u : Uop) : (s.runUop u).inputs = s.inputs := by unfold State.runUop; split <;> simp
@[simp] theorem State.runUop_trace (s : State) (u : Uop) : (s.runUop u).trace = s.trace ++ [.op u] := by unfold State.runUop; split <;> simp
@[simp] theorem State.runUop_upc (s : State) (u : Uop) : (s.runUop u).upc = s.upc + 1 := by unfold State.runUop; split <;> simp

@[simp] theorem State.startTimer_outs (s : State) (pulse : Bool) (t : Nat) :
    (s.startTimer pulse t).outs = { s.outs with timer := some ⟨pulse, t⟩ } := rfl

/-- A list of micro-operations leaves the sequencer's command and flags alone and appends itself to the trace. -/
theorem State.runUops_frame (us : List Uop) (s : State) :
    (s.runUops us).cfg = s.cfg ∧ (s.runUops us).life = s.life ∧ (s.runUops us).busy = s.busy ∧
    (s.runUops us).cmdr = s.cmdr ∧ (s.runUops us).host = s.host ∧ (s.runUops us).inputs = s.inputs ∧
    (s.runUops us).trace = s.trace ++ us.map .op := by
  induction us generalizing s with
  | nil => simp [State.runUops]
  | cons u us ih =>
    have h := ih (s.runUop u)
    simp only [State.runUops, List.foldl_cons] at h ⊢
    simpa [List.append_assoc] using h

@[simp] theorem State.runUops_nil (s : State) : s.runUops [] = s := rfl

@[simp] theorem State.runUops_cons (u : Uop) (us : List Uop) (s : State) :
    s.runUops (u :: us) = (s.runUop u).runUops us := rfl

theorem State.runUops_append (us vs : List Uop) (s : State) :
    s.runUops (us ++ vs) = (s.runUops us).runUops vs := by
  simp [State.runUops]

end Sys2Proof.Machine
end

