-- ==== Sys2Proof/Laws/Step.lean ====
section
/-! SUPPORT. What one step can do, said once (spec/10_state.md R33 to R38), and runs of steps. Provers cite these instead of
unfolding `cycle`. -/

namespace Sys2Proof.Machine

/-- A run over two lists of port levels is one run after the other. -/
theorem runWith_append (a b : List Inputs) (s t : State) (h : runWith a s = .next t) :
    runWith (a ++ b) s = runWith b t := by
  induction a generalizing s with
  | nil => simp [runWith] at h; subst h; rfl
  | cons i a ih =>
    simp only [runWith, List.cons_append] at h ⊢
    split at h <;> simp_all

/-- Timed runs add up. -/
theorem runTimed_add (m n : Nat) (s t : State) (h : runTimed m s = .next t) :
    runTimed (m + n) s = runTimed n t := by
  unfold runTimed at *
  rw [List.replicate_add]; exact runWith_append _ _ _ _ h

/-- A timed run of one step. -/
theorem runTimed_one (s t : State) (h : cycle .timer s = .next t) : runTimed 1 s = .next t := by
  simp [runTimed, runWith, h]

/-- `step` is `cycle` with the next port levels. -/
theorem step_cycle (s : State) : step s = cycle s.nextInputs { s with inputs := s.inputs.tail } := by
  unfold step State.nextInputs
  cases h : s.inputs with
  | nil =>
    have : ({ s with inputs := [] } : State) = s := by cases s; simp_all
    simp [this]
  | cons a l => rfl

/-- A step of a busy block that is no reset. -/
theorem cycle_busy (inp : Inputs) (s : State) (hw : s.cfg.wf = true) (hb : s.busy = true) (hr : inp.rst = false) :
    cycle inp s = (if s.dly then (if inp.tmrDone then s.clearOuts.timerDone else .next s.clearOuts)
      else s.clearOuts.perform) := by
  simp [cycle, hw, hb, hr]

/-- No expansion is longer than 103 (10_state.md R24). -/
theorem expand_length_le (c : Config) (cw : CmdWord) : (expand c cw).length ≤ 103 := by
  have hb : ∀ v m, (sendByteUops c v m).length ≤ 15 := by
    intro v m; unfold sendByteUops sendNibbleUops; cases c.enStrategy <;> simp
  have hi : (initUops c).length ≤ 103 := by
    unfold initUops initPrologue initTable entryUops sendByteUops sendNibbleUops
    cases c.enStrategy <;> simp
  have hc : (clearUops c).length ≤ 103 := by
    have := hb 0x01 .instruction
    simp only [clearUops, List.length_append, List.length_singleton]; omega
  unfold expand decode
  dsimp only
  split_ifs
  all_goals simp only [uopsOf]
  all_goals first
    | exact hi
    | exact hc
    | exact (hb _ _).trans (by omega)
    | simp

/-- `upc + 1` does not wrap inside an expansion. -/
theorem upc_succ (s : State) (h : s.upc.toNat < (expand s.cfg s.cmdr).length) : (s.upc + 1).toNat = s.upc.toNat + 1 := by
  have := expand_length_le s.cfg s.cmdr
  rw [BitVec.toNat_add]; simp; omega

/-- `advance` in one equation. -/
theorem advance_eq (s : State) : s.advance = if (s.upc+1#7).toNat = (expand s.cfg s.cmdr).length then s.nextUpc.retire else s.nextUpc := rfl

/-- Ending a timed micro-operation does not look at the step-wide outputs. -/
theorem endTimer_clearOuts (u : Uop) (s : State) : s.clearOuts.endTimer u = (s.endTimer u).clearOuts := by
  cases u <;> simp only [State.endTimer, State.writeEn, State.clearOuts, State.latchItem]
  split <;> rfl

/-- A timed micro-operation sets `dly`. -/
theorem emit_dly (s : State) (u : Uop) : (s.emit u).dly = (u.timed || s.dly) := by
  cases u <;> simp [State.emit, State.effect, Uop.timed]

/-- A micro-operation performed to its end leaves `dly` at 0. -/
theorem runUop_dly (s : State) (u : Uop) (hd : s.dly = false) : (s.runUop u).dly = false := by
  unfold State.runUop; split <;> simp_all [emit_dly]

/-- One step, or two for a timed micro-operation, performs the current micro-operation to its end. -/
theorem one_uop (s : State) (u : Uop) (hw : s.cfg.wf = true) (hb : s.busy = true) (hd : s.dly = false)
    (hu : s.current = some u) :
    runTimed (1 + if u.timed then 1 else 0) s = .next
      (if (s.upc + 1).toNat = (expand s.cfg s.cmdr).length then (s.runUop u).retire else s.runUop u) := by
  have hc : s.clearOuts.current = some u := hu
  have h1 : cycle .timer s = s.clearOuts.perform := by rw [cycle_busy _ _ hw hb rfl]; simp [hd]
  cases ht : u.timed
  · simp only [Bool.false_eq_true, if_false, Nat.add_zero]
    apply runTimed_one
    rw [h1]
    simp [State.perform, hc, ht, State.advance, State.runUop]
  · have hp : runTimed 1 s = .next (s.clearOuts.emit u) := by
      apply runTimed_one; rw [h1]; simp [State.perform, hc, ht]
    rw [if_pos rfl, runTimed_add _ _ _ _ hp]
    apply runTimed_one
    have hcu : (s.clearOuts.emit u).clearOuts.current = some u := by
      simp only [State.current] at hu ⊢; simpa using hu
    rw [cycle_busy _ _ (by simpa using hw) (by simpa using hb) rfl]
    simp only [emit_dly, ht, Bool.true_or, if_true, Inputs.timer, State.timerDone, hcu, endTimer_clearOuts]
    simp [State.advance, State.runUop, ht]

/-- Steps of a list, one micro-operation at a time. -/
theorem stepsFor_cons (u : Uop) (us : List Uop) : stepsFor (u :: us) = (1 + if u.timed then 1 else 0) + stepsFor us := by
  simp only [stepsFor, List.length_cons, List.countP_cons]; split <;> omega

/-- What the head of the rest of an expansion says about `upc`. -/
theorem current_of_drop (s : State) (u : Uop) (us : List Uop)
    (h : (expand s.cfg s.cmdr).drop s.upc.toNat = u :: us) :
    s.upc.toNat < (expand s.cfg s.cmdr).length ∧ s.current = some u ∧
    (expand s.cfg s.cmdr).drop (s.upc + 1).toNat = us := by
  have hlen : s.upc.toNat < (expand s.cfg s.cmdr).length := by
    by_contra hc
    rw [List.drop_eq_nil_of_le (by omega)] at h; simp at h
  refine ⟨hlen, ?_, ?_⟩
  · simp only [State.current, ← List.head?_drop, h, List.head?_cons]
  · rw [upc_succ s hlen, ← List.tail_drop, h, List.tail_cons]

/-- A run whose words are all done is over where it stands. -/
theorem runProgram_over (ins : List Inputs) (s : State) (h : s.allDone = true) : runProgram ins s = (.over, s) := by
  unfold runProgram
  rw [if_pos h]

/-- One step of a run that is not over: a reset step aborts it, any other goes on. -/
theorem runProgram_cons (i : Inputs) (rest : List Inputs) (s t : State) (h : s.allDone = false) (hc : cycle i s = .next t) :
    runProgram (i :: rest) s = if i.rst then (.aborted, t) else runProgram rest t := by
  rw [runProgram, if_neg (by simp [h])]
  simp only [hc]

end Sys2Proof.Machine
end

