-- ==== Sys2Proof/Laws/Expand.lean ====
section
/-! SUPPORT. The expansions (spec/30_encoding.md R81) one by one, the micro-operations performed to their end, and what a step and
an accepted command can do: one inversion lemma each. -/

namespace Sys2Proof.Machine

/-- SENDI's word decodes to it (30_encoding.md R81). -/
theorem decode_sendWord_instruction (v : Byte) : decode (sendWord .instruction v) = .ok (.sendi v) := by revert v; decide

/-- SENDD's word decodes to it. -/
theorem decode_sendWord_data (v : Byte) : decode (sendWord .data v) = .ok (.sendd v) := by revert v; decide

/-- SETCUR's word decodes to it. -/
theorem decode_setcurWord (v : BitVec 1) : decode (setcurWord v) = .ok (.setcur v) := by revert v; decide

/-- A byte send is no INIT. -/
theorem isInit_sendWord (m : SendMode) (v : Byte) : isInit (sendWord m v) = false := by cases m <;> (revert v; decide)

/-- INIT's expansion. -/
theorem expand_init (c : Config) : expand c 0x000 = initUops c := by
  have : decode 0x000 = .ok .init := by decide
  simp only [expand, this, uopsOf]

/-- CLEAR's expansion. -/
theorem expand_clear (c : Config) : expand c 0x100 = clearUops c := by
  have : decode 0x100 = .ok .clear := by decide
  simp only [expand, this, uopsOf]

/-- Every word's expansion is one of four. -/
theorem expand_cases (c : Config) (cw : CmdWord) : expand c cw = [] ∨ (isInit cw = true ∧ expand c cw = initUops c) ∨
    (isInit cw = false ∧ expand c cw = clearUops c) ∨ (isInit cw = false ∧ ∃ v m, expand c cw = sendByteUops c v m) := by
  unfold expand decode
  dsimp only
  split_ifs with a a' a a' a a' a a
  all_goals simp only [uopsOf]
  all_goals simp only [isInit]
  · simp [a]
  · simp
  · simp [a]
  · simp
  · simp [a]; exact .inr (.inr ⟨_, .instruction, rfl⟩)
  · simp
  · simp [a]; exact .inr (.inr ⟨_, .instruction, rfl⟩)
  · simp [a]; exact .inr (.inr ⟨_, .data, rfl⟩)
  · simp

/-- RS performed. -/
theorem run_rs (s : State) (b : Bool) : s.runUop (.rs b) =
    { s with x := { s.x with rs := b }, upc := s.upc + 1, outs := .quiet, trace := s.trace ++ [.op (.rs b)] } := by
  simp [State.runUop, State.emit, State.effect, State.nextUpc, State.clearOuts, Uop.timed]

/-- DELAY performed to its end. -/
theorem run_delay (s : State) (t : Nat) (hd : s.dly = false) : s.runUop (.delay t) =
    { s with upc := s.upc + 1, outs := .quiet, trace := s.trace ++ [.op (.delay t)] } := by
  cases s; subst hd
  simp [State.runUop, State.emit, State.effect, State.nextUpc, State.clearOuts, Uop.timed, State.startTimer, State.endTimer]

/-- CFG_OUT performed. -/
theorem run_cfgOut (s : State) (p : Pin) : s.runUop (.cfgOut p) =
    { s with oe := s.oe.set p true, upc := s.upc + 1, outs := .quiet, trace := s.trace ++ [.op (.cfgOut p)] } := by
  simp [State.runUop, State.emit, State.effect, State.nextUpc, State.clearOuts, Uop.timed]

/-- The state of `s` after SEND_NIBBLE's list, from EN idle (40_pulse_controller.md R110, R111). -/
theorem run_nibble (s : State) (n : Nibble) (he : s.x.en = enIdle s.cfg) (hd : s.dly = false) :
    s.runUops (sendNibbleUops s.cfg n) =
      { s with
        x := s.x.setData n
        upc := s.upc + BitVec.ofNat 7 (sendNibbleUops s.cfg n).length
        outs := .quiet
        trace := s.trace ++ (sendNibbleUops s.cfg n).map .op
        latched := s.latched ++ [nibbleItem s.oe s.x.rs n] } := by
  obtain ⟨cfg, ⟨rs,en,d7,d6,d5,d4⟩, oe, life, busy, dly, cmdr, upc, host, ins, outs, tr, la⟩ := s
  dsimp only at he hd
  subst he; subst hd
  have h1 := enIdle_ne_enAct cfg
  have h2 := h1.symm
  have hd := Lines.data_setData ⟨rs, enAct cfg, d7, d6, d5, d4⟩ n
  simp only [Lines.setData] at hd
  unfold sendNibbleUops
  cases cfg.enStrategy <;>
  simp [State.runUop, State.emit, State.effect, State.endTimer, State.writeEn, State.startTimer, State.nextUpc, State.clearOuts,
    Uop.timed, h1, h2, State.latchItem, nibbleItem, Lines.setData, hd, BitVec.add_assoc]

/-- Everything an instruction that a command word decodes to can do at an idle block (10_state.md R34). -/
theorem exec_idle_cases (i : Instr) (cw : CmdWord) (s t : State) (hb : s.busy = false) (hi : decode cw = .ok i) (h : exec i s = .next t) :
    s.cfg.wf = true ∧
    ((isInit cw = true ∧ t = ({ s with life := .initializing }).take 0x000) ∨
     (isInit cw = false ∧ s.cfg.strictInit = true ∧ s.life ≠ .ready ∧ t = s.raise .notInitialized) ∨
     (isInit cw = false ∧ (s.cfg.strictInit = true → s.life = .ready) ∧ ∃ w, decode w = .ok i ∧ isInit w = false ∧ t = s.take w)) := by
  have port : ∀ w, isInit cw = false → decode w = .ok i → isInit w = false → s.atPort (State.takeIfReady w) = .next t →
      s.cfg.wf = true ∧ ((isInit cw = true ∧ t = ({ s with life := .initializing }).take 0x000) ∨
     (isInit cw = false ∧ s.cfg.strictInit = true ∧ s.life ≠ .ready ∧ t = s.raise .notInitialized) ∨
     (isInit cw = false ∧ (s.cfg.strictInit = true → s.life = .ready) ∧ ∃ w, decode w = .ok i ∧ isInit w = false ∧ t = s.take w)) := by
    intro w h1 h2 h3 h4
    unfold State.atPort State.takeIfReady at h4
    split at h4
    · rename_i hw
      rw [hb] at h4
      simp only [Bool.false_eq_true, if_false] at h4
      split at h4
      · rename_i hs; injection h4 with h4; exact ⟨hw, .inr (.inl ⟨h1, hs.1, hs.2, h4.symm⟩)⟩
      · rename_i hs; injection h4 with h4; exact ⟨hw, .inr (.inr ⟨h1, by tauto, w, h2, h3, h4.symm⟩)⟩
    · simp at h4
  have hw' := hi
  unfold decode at hi
  dsimp only at hi
  split_ifs at hi with a a' a a' a a' a a <;> (try simp at hi) <;> subst hi
  · simp only [exec, execInit, State.atPort, hb] at h
    split at h
    · rename_i hw; simp at h; exact ⟨hw, .inl ⟨by simp [isInit, a], h.symm⟩⟩
    · simp at h
  · exact port 0x100 (by simp [isInit, a]) (by decide) (by decide) h
  · exact port _ (by simp [isInit, a]) (decode_setcurWord _) (by generalize BitVec.extractLsb' 0 1 (argField cw) = l; revert l; decide) h
  · exact port _ (by simp [isInit, a]) (decode_sendWord_instruction _) (isInit_sendWord .instruction _) h
  · exact port _ (by simp [isInit, a]) (decode_sendWord_data _) (isInit_sendWord .data _) h

/-- Everything one step can do (10_state.md R33 to R38). -/
theorem cycle_cases (inp : Inputs) (s t : State) (h : cycle inp s = .next t) :
    s.cfg.wf = true ∧
    ((inp.rst = true ∧ t = s.resetStep) ∨
     (inp.rst = false ∧ s.busy = true ∧ s.dly = true ∧ inp.tmrDone = false ∧ t = s.clearOuts) ∨
     (inp.rst = false ∧ s.busy = true ∧ s.dly = true ∧ ∃ u, s.current = some u ∧ u.timed = true ∧ t = (s.clearOuts.endTimer u).advance) ∨
     (inp.rst = false ∧ s.busy = true ∧ s.dly = false ∧ ∃ u, s.current = some u ∧ u.timed = true ∧ t = s.clearOuts.emit u) ∨
     (inp.rst = false ∧ s.busy = true ∧ s.dly = false ∧ ∃ u, s.current = some u ∧ u.timed = false ∧ t = (s.clearOuts.emit u).advance) ∨
     (inp.rst = false ∧ s.busy = false ∧ (inp.cmdValid = false ∨ s.host = []) ∧ t = s.clearOuts) ∨
     (inp.rst = false ∧ s.busy = false ∧ inp.cmdValid = true ∧ ∃ cw rest, s.host = cw :: rest ∧
        ((∃ e, decode cw = .error e ∧ t = ({ s.clearOuts with host := rest }).raise .illegalCommand) ∨
         (∃ i, decode cw = .ok i ∧ exec i { s.clearOuts with host := rest } = .next t)))) := by
  unfold cycle at h
  split at h
  case isFalse => simp at h
  rename_i hw
  refine ⟨hw, ?_⟩
  split at h
  · rename_i hr; injection h with h; exact .inl ⟨hr, h.symm⟩
  rename_i hr; simp only [Bool.not_eq_true] at hr
  split at h
  · rename_i hb
    split at h
    · rename_i hd
      split at h
      · unfold State.timerDone at h
        have hc : s.clearOuts.current = s.current := rfl
        rw [hc] at h
        split at h
        · simp at h
        · rename_i u hu
          split at h
          · rename_i ht; injection h with h; exact .inr (.inr (.inl ⟨hr, hb, hd, u, hu, ht, h.symm⟩))
          · simp at h
      · rename_i hn; injection h with h; exact .inr (.inl ⟨hr, hb, hd, by simpa using hn, h.symm⟩)
    · rename_i hd; simp only [Bool.not_eq_true] at hd
      unfold State.perform at h
      have hc : s.clearOuts.current = s.current := rfl
      rw [hc] at h
      split at h
      · simp at h
      · rename_i u hu
        split at h
        · rename_i ht; injection h with h; exact .inr (.inr (.inr (.inl ⟨hr, hb, hd, u, hu, ht, h.symm⟩)))
        · rename_i ht; injection h with h; exact .inr (.inr (.inr (.inr (.inl ⟨hr, hb, hd, u, hu, by simpa using ht, h.symm⟩))))
  · rename_i hb; simp only [Bool.not_eq_true] at hb
    split at h
    · rename_i hv
      split at h
      · rename_i hh; injection h with h; exact .inr (.inr (.inr (.inr (.inr (.inl ⟨hr, hb, .inr hh, h.symm⟩)))))
      · rename_i cw rest hh
        refine .inr (.inr (.inr (.inr (.inr (.inr ⟨hr, hb, hv, cw, rest, hh, ?_⟩)))))
        unfold State.acceptWord at h
        split at h
        · rename_i i hi; exact .inr ⟨i, hi, h⟩
        · rename_i e he; injection h with h; exact .inl ⟨e, he, h.symm⟩
    · rename_i hv; injection h with h; exact .inr (.inr (.inr (.inr (.inr (.inl ⟨hr, hb, .inl (by simpa using hv), h.symm⟩)))))

end Sys2Proof.Machine
end

