-- ==== Sys2Proof/Laws/PerInstr.lean ====
section
/-! SUPPORT. The family `LegalWords`: every word of an instruction's encoding is legal (spec/30_encoding.md R81), one lemma per
constructor of `Instr`. -/

namespace Sys2Proof.Laws.LegalWords

/-- Every word of the encoding of `i` is in R81's table. -/
def Statement (i : Instr) : Prop := ∀ w ∈ encode i, legal w = true

/-- SETCUR's words are legal. -/
theorem legal_setcurWord (line : BitVec 1) : legal (setcurWord line) = true := by revert line; decide

/-- The words of the byte sends are legal. -/
theorem legal_sendWord (mode : SendMode) (value : Byte) : legal (sendWord mode value) = true := by
  cases mode <;> (revert value; decide)

theorem init : Statement .init := by simp [Statement, encode, legal]

theorem clear : Statement .clear := by simp [Statement, encode, legal]

theorem setcur (line : BitVec 1) : Statement (.setcur line) := by simp [Statement, encode, legal_setcurWord]

theorem sendi (value : Byte) : Statement (.sendi value) := by simp [Statement, encode, legal_sendWord]

theorem sendd (value : Byte) : Statement (.sendd value) := by simp [Statement, encode, legal_sendWord]

theorem sendByte (v : Byte) (m : SendMode) : Statement (.sendByte v m) := by simp [Statement, encode]

theorem sendNibble (n : Nibble) : Statement (.sendNibble n) := by simp [Statement, encode]

theorem wrline (text : List Nat) (line : Nat) : Statement (.wrline text line) := by
  intro w hw
  simp only [encode] at hw
  split at hw
  · rcases List.mem_cons.mp hw with h | h
    · exact h ▸ legal_setcurWord _
    · obtain ⟨c, -, rfl⟩ := List.mem_map.mp h
      exact legal_sendWord _ _
  · simp at hw

theorem sendb (value : Byte) (mode : SendMode) : Statement (.sendb value mode) := by simp [Statement, encode, legal_sendWord]

end Sys2Proof.Laws.LegalWords
end

