-- ==== Sys2Proof/Tests/Slice0.lean ====
section
/-! SUPPORT. The model's own tests: the well-formedness smoke tests, words written out from the encoding table, single steps with
results taken from spec/95_test_vectors.md, and a witness for the premises of every statement. -/

namespace Sys2Proof.Tests

open Sys2Proof.Machine

/-- Does the outcome go on, and to a state with `p`? -/
def nextHas (o : Host.Outcome State Fault Refusal) (p : State → Bool) : Bool :=
  match o with
  | .next s => p s
  | .fault _ => false
  | .refused _ => false

/-- Is the outcome this refusal? -/
def refusedBy (o : Host.Outcome State Fault Refusal) (r : Refusal) : Bool :=
  match o with
  | .next _ => false
  | .fault _ => false
  | .refused q => q == r

/-- `S_READY` of 95_test_vectors.md. -/
def ready : State :=
  { State.reset with x := ⟨false, false, false, false, true, false⟩, oe := Lines.on, life := .ready, upc := 103 }

/-- `ready` with the command `cw` in flight at `k`. -/
def inFlight (cw : CmdWord) (k : Upc) (dly en : Bool) : State :=
  { ready with busy := true, dly := dly, cmdr := cw, upc := k, x := { ready.x with en := en } }

/-- The state of V18 before the reset strikes: INIT at `upc` 11, in phase P4, with its trace. -/
def initInP4 : State :=
  { inFlight 0x000 11 true true with
    life := .initializing
    x := ⟨false, true, false, false, true, true⟩
    trace := ((expand Config.default 0x000).take 12).map .op }

/-- The default configuration with TimerPulse. -/
def pulseConfig : Config := withStrategy Config.default .timerPulse

/-- SENDD 'H' under TimerPulse, in its first PULSE. -/
def inPulse : State := { inFlight 0x548 3 true true with cfg := pulseConfig }

/-- The default configuration with `STRICT_INIT`. -/
def strict : Config := { Config.default with strictInit := true }

/- Well-formedness: each check refuses an ill-formed term -/

theorem test_wf_default : Config.default.wf = true := by decide

theorem test_wf_pins : ({ Config.default with pinD7 := 0 } : Config).wf = false := by decide

theorem test_wf_dispctl_low : ({ Config.default with dispctl := 0x0B } : Config).wf = false := by decide

theorem test_wf_dispctl_high : ({ Config.default with dispctl := 0x10 } : Config).wf = false := by decide

theorem test_wf_setup : ({ Config.default with tEnSetup := 0 } : Config).wf = false := by decide

theorem test_wf_width : ({ Config.default with tEnWidth := 0 } : Config).wf = false := by decide

theorem test_wf_hold : ({ Config.default with tEnHold := 0 } : Config).wf = false := by decide

theorem test_wf_settle : ({ Config.default with tSettle := 0 } : Config).wf = false := by decide

theorem test_wf_reset : ({ Config.default with tReset := 4999 } : Config).wf = false := by decide

theorem test_wf_clear : ({ Config.default with tClear := 1599 } : Config).wf = false := by decide

/-- The least well-formed values of 95_test_vectors.md V20. -/
theorem test_wf_least :
    ({ Config.default with
      tEnSetup := 1, tEnWidth := 1, tEnHold := 1, tSettle := 1, tReset := 5000, tStep := 0, tClear := 1600, tHome := 0
      dispctl := 0x0F } : Config).wf = true := by decide

theorem test_wf_line : (Instr.wrline [0x48] 2).wf = false := by decide

theorem test_wf_character : (Instr.wrline [0x48, 256] 0).wf = false := by decide

/- Decoding: words written out from 30_encoding.md R80, R81, bit by bit (op, then arg) -/

theorem test_decode_init : decode 0b00000000000 = .ok .init := by decide

theorem test_decode_clear : decode 0b00100000000 = .ok .clear := by decide

theorem test_decode_setcur0 : decode 0b01000000000 = .ok (.setcur 0) := by decide

theorem test_decode_setcur1 : decode 0b01000000001 = .ok (.setcur 1) := by decide

theorem test_decode_sendi : decode 0b10000101000 = .ok (.sendi 0x28) := by decide

theorem test_decode_sendd : decode 0b10101001000 = .ok (.sendd 0x48) := by decide

theorem test_decode_last : decode 0b10111111111 = .ok (.sendd 0xFF) := by decide

theorem test_decode_reserved_args :
    decode 0b00011111111 = .error .initArg ∧ decode 0b00100000001 = .error .clearArg ∧
    decode 0b01000000010 = .error .setcurArg ∧ decode 0b01011111111 = .error .setcurArg := by decide

theorem test_decode_reserved_ops :
    decode 0b01100000000 = .error .reservedOp ∧ decode 0b11010101011 = .error .reservedOp ∧
    decode 0b11111111111 = .error .reservedOp := by decide

theorem test_decode_table_word :
    decodeTableWord 16 0x201 = some (.setcur 1) ∧ decodeTableWord 16 0x202 = none ∧ decodeTableWord 16 0x800 = none := by decide

/-- SENDB has the words of SENDI and SENDD; WRLINE's words are V14's; internal operations have none. -/
theorem test_encode_pseudo :
    encode (.sendb 0x80 .instruction) = [0x480] ∧ encode (.sendb 0x48 .data) = [0x548] ∧
    encode (.wrline [0x48, 0x49] 1) = [0x201, 0x548, 0x549] ∧ encode (.wrline [] 1) = [0x201] ∧
    encode (.sendNibble 3) = [] ∧ encode (.sendByte 0x28 .instruction) = [] := by decide

/- The table and the expansions, from 95_test_vectors.md V9, V11, V12 -/

/-- V9: micro-operations 0 to 14 and 63, 98, 102 of INIT. -/
theorem test_init_uops :
    (initUops Config.default)[5]? = some (.cfgOut .d7) ∧ (initUops Config.default)[6]? = some (.rs false) ∧
    (initUops Config.default)[7]? = some (.data 3) ∧ (initUops Config.default)[14]? = some (.delay 5000) ∧
    (initUops Config.default)[63]? = some (.data 0xC) ∧ (initUops Config.default)[102]? = some (.delay 10000) ∧
    (initUops Config.default)[103]? = none := by decide

/-- V12: CLEAR under both strategies. -/
theorem test_clear_uops :
    (clearUops Config.default).length = 16 ∧ (clearUops pulseConfig).length = 10 ∧
    (clearUops pulseConfig)[9]? = some (.delay 10000) := by decide

/- One step each -/

/-- V16: INIT accepted from reset under `STRICT_INIT`. -/
theorem test_init_accept :
    nextHas (step ({ State.reset with cfg := strict }.withFetchWord 16 0x000)) (fun t =>
      t.life == .initializing && t.busy && t.cmdr == 0x000 && t.upc == 0 && t.outs.cmdResp == some .accept) = true := by decide

/-- V9: INIT's last micro-operation done: `0 0 2 | 111111 | Ready 0 0 | 0x000 103`. -/
theorem test_init_retires :
    nextHas (cycle .timer { inFlight 0x000 102 true false with life := .initializing }) (fun t => t == ready) = true := by decide

/-- V16: CLEAR before INIT under `STRICT_INIT`. -/
theorem test_clear_not_initialized :
    nextHas (step ({ State.reset with cfg := strict }.withFetchWord 16 0x100)) (fun t =>
      t == { State.reset with cfg := strict, outs := { Outs.quiet with cmdResp := some .notInitialized } }) = true := by decide

/-- V12: CLEAR retires with `upc` 16. -/
theorem test_clear_retires :
    nextHas (cycle .timer (inFlight 0x100 15 true false)) (fun t => !t.busy && !t.dly && t.upc == 16 && t.life == .ready) = true := by
  decide

/-- V13: the high nibble of SETCUR 1's byte is 0xC. -/
theorem test_setcur_high_nibble :
    nextHas (cycle .quiet (inFlight 0x201 1 false false)) (fun t => t.x.data == 0xC && t.upc == 2) = true := by decide

/-- V8: SENDI drives RS low first. -/
theorem test_sendi_rs :
    nextHas (cycle .quiet { inFlight 0x480 0 false false with x := Lines.on }) (fun t => !t.x.rs && t.upc == 1) = true := by decide

/-- V17: SENDD before INIT, `STRICT_INIT` false: accepted, `life` as it was. -/
theorem test_sendd_before_init :
    nextHas (step (State.reset.withFetchWord 16 0x541)) (fun t =>
      t.life == .uninitialized && t.busy && t.cmdr == 0x541 && t.outs.cmdResp == some .accept) = true := by decide

/-- V7: SENDD's low nibble is latched with RS high. -/
theorem test_sendd_latches :
    nextHas (cycle .quiet { inFlight 0x548 13 false true with x := ⟨true, true, true, false, false, false⟩ }) (fun t =>
      t.latched == [.nibble true 8] && !t.x.en) = true := by decide

/-- V1: SEND_NIBBLE(0x3). -/
theorem test_send_nibble :
    nextHas (exec (.sendNibble 3) (inFlight 0x548 1 false false)) (fun t =>
      t.x == ⟨false, false, false, false, true, true⟩ && t.latched == [.nibble false 3] && t.upc == 8) = true := by decide

/-- V3: SEND_NIBBLE(0x0) under TimerPulse. -/
theorem test_send_nibble_pulse :
    nextHas (exec (.sendNibble 0) { inFlight 0x548 1 false false with cfg := pulseConfig }) (fun t =>
      t.x.data == 0 && t.latched == [.nibble false 0] && t.upc == 5) = true := by decide

/-- V5: SEND_BYTE(0x28, 0) latches `0:2, 0:8`. -/
theorem test_send_byte :
    nextHas (exec (.sendByte 0x28 .instruction) (inFlight 0x428 0 false false)) (fun t =>
      t.latched == [.nibble false 2, .nibble false 8] && t.x.data == 8 && t.upc == 15) = true := by decide

/-- V14: WRLINE "HI", 0. -/
theorem test_wrline :
    nextHas (exec (.wrline [0x48, 0x49] 0) ready) (fun t => t == { ready with host := [0x200, 0x548, 0x549] }) = true := by decide

/-- 30_encoding.md R90: SENDB value, D is SENDD. -/
theorem test_sendb :
    nextHas (exec (.sendb 0x41 .data) ready) (fun t => t.cmdr == 0x541 && t.busy) = true := by decide

/-- V16: a reserved word is IllegalCommand even before INIT under `STRICT_INIT`. -/
theorem test_illegal :
    nextHas (step ({ State.reset with cfg := strict }.withFetchWord 16 0x101)) (fun t =>
      t == { State.reset with cfg := strict, outs := { Outs.quiet with cmdResp := some .illegalCommand } }) = true := by decide

/-- V18: reset during an EN pulse. -/
theorem test_reset_in_pulse :
    nextHas (cycle .reset initInP4) (fun t =>
      t == { State.reset with trace := initInP4.trace ++ [.reset], latched := [.undriven] }) = true := by decide

/-- 95_test_vectors.md V2: with `EN_ACTIVE = Low` EN idles high at reset. -/
theorem test_reset_low : (State.resetOf (withActive Config.default .low)).x.en = true := by decide

/-- 95_test_vectors.md V14: the bytes of WRLINE "HI", 0. -/
theorem test_latched_bytes :
    latchedBytes [.nibble false 8, .nibble false 0, .nibble true 4, .nibble true 8, .nibble true 4, .nibble true 9] =
      some [(false, 0x80), (true, 0x48), (true, 0x49)] ∧
    latchedBytes [.nibble false 8, .undriven] = none ∧ latchedBytes [.nibble false 8] = none ∧
    latchedBytes [.nibble false 8, .nibble true 0] = none := by decide

/-- 00_scope.md R5: an EN time that is not given is `T_SETTLE`, one that is given stands. -/
theorem test_settle_default :
    ({ GivenConfig.least with tSettle := some 2000, tEnHold := some 50 } : GivenConfig).config =
      { Config.default with tEnSetup := 2000, tEnWidth := 2000, tEnHold := 50, tSettle := 2000 } := by decide

/-- 00_scope.md R5, R6: the defaults. -/
theorem test_defaults :
    Config.default = ⟨0, 1, 2, 3, 4, 5, 0x0C, .directToggle, .high, 1000, 1000, 1000, 1000, 5000, 5000, 10000, 10000, 1, false⟩ := by
  decide

/-- 10_state.md R31, R35: the timer's ports in the step that starts a PULSE, and in one that does not. -/
theorem test_timer_ports :
    nextHas (cycle .quiet { inPulse with dly := false, x := ready.x }) (fun t =>
      t.tmrStart && t.tmrPulse == some true && t.tmrDur == some 1000) = true ∧
    nextHas (cycle .quiet inPulse) (fun t => !t.tmrStart && t.tmrPulse == none) = true := by decide

/-- 42_init_sequencer.md R148: `done` after INIT, `I_E0` in V18's state, no state right after reset. -/
theorem test_init_states :
    ready.initState = some .done ∧ initInP4.initState = some .iE0 ∧ State.reset.initState = none ∧
    (inFlight 0x100 3 false false).initState = none := by decide

/-- 70_reset_and_hazards.md R238: a reset inside the last command aborts the run, one after it does not. -/
theorem test_run_aborted :
    (runProgram [.present, .quiet, .reset, .quiet] { ready with host := [0x201] }).1 = .aborted ∧
    (runProgram [.present, .quiet, .reset] { ready with host := [0x300] }).1 = .over ∧
    (runProgram [.present, .quiet] { ready with host := [0x201] }).1 = .running := by decide

/-- V1's waveform: `EN=0` drops out, and V3's is the same with `D=0`. -/
theorem test_waveform :
    waveform Config.default Lines.off Lines.on (sendNibbleUops Config.default 3) =
      [.data 3, .delay 1000, .en true, .delay 1000, .en false, .delay 1000] ∧
    waveform pulseConfig { Lines.off with d4 := true } Lines.on (sendNibbleUops pulseConfig 0) =
      [.data 0, .delay 1000, .en true, .delay 1000, .en false, .delay 1000] := by decide

/- Witnesses: states and operands that meet the premises of the statements -/

theorem test_inv_initInP4 : initInP4.Inv where
  config := by decide
  delay_busy := by decide
  in_flight := by decide
  delay_timed := fun _ => ⟨.delay 1000, by decide, by decide⟩
  initializing := by decide
  en_level := by decide
  configured := by intro _ _ p _; cases p <;> decide
  ready_driven := by decide
  strict_ready := by decide

theorem test_inv_inPulse : inPulse.Inv where
  config := by decide
  delay_busy := by decide
  in_flight := by decide
  delay_timed := fun _ => ⟨.pulse 1000, by decide, by decide⟩
  initializing := by decide
  en_level := by decide
  configured := by intro _ _ p _; cases p <;> decide
  ready_driven := by decide
  strict_ready := by decide

theorem test_inv_ready : ready.Inv where
  config := by decide
  delay_busy := by decide
  in_flight := by decide
  delay_timed := fun h => absurd h (by decide)
  initializing := by decide
  en_level := by decide
  configured := by intro h; exact absurd h (by decide)
  ready_driven := by decide
  strict_ready := by decide

/-- INIT at its last micro-operation, the delay running. -/
def initLast : State := { inFlight 0x000 102 true false with life := .initializing }

theorem test_inv_initLast : initLast.Inv where
  config := by decide
  delay_busy := by decide
  in_flight := by decide
  delay_timed := fun _ => ⟨.delay 10000, by decide, by decide⟩
  initializing := by decide
  en_level := by decide
  configured := by intro _ _ p _; cases p <;> decide
  ready_driven := by decide
  strict_ready := by decide

theorem test_witness_DecodeOfEncodeIsTheCommands :
    Instr.wf (.wrline [0, 255] 1) = true ∧ Instr.wf (.wrline [] 0) = true ∧ Instr.wf (.setcur 1) = true := by decide

theorem test_witness_DecodedWordIsItsEncoding :
    decode 0x000 = .ok .init ∧ decode 0x201 = .ok (.setcur 1) ∧ decode 0x4FF = .ok (.sendi 0xFF) := by decide

theorem test_witness_LegalWordsAreExactlyTheDecoded :
    (opField 0x0FF = 0b000 ∧ argField 0x0FF ≠ 0) ∧ (opField 0x101 = 0b001 ∧ argField 0x101 ≠ 0) ∧
    (opField 0x202 = 0b010 ∧ (argField 0x202).extractLsb' 1 7 ≠ 0) ∧
    opField 0x3FF = 0b011 ∧ opField 0x600 = 0b110 ∧ opField 0x7FF = 0b111 := by decide

theorem test_witness_ResetStepFromEveryState : initInP4.cfg.wf = true ∧ initInP4.x.en = enAct initInP4.cfg := by decide

theorem test_witness_InvariantAtReset : strict.wf = true ∧ pulseConfig.wf = true := by decide

/-- Also for StepsNeverStopUnderTheInvariant and InvariantGivesR39: a premise `Inv` and a step that goes on. -/
theorem test_witness_EveryStepKeepsTheInvariant :
    initInP4.Inv ∧ nextHas (step { initInP4 with inputs := [.timer] }) (fun t => t.upc == 12 && !t.dly) = true :=
  ⟨test_inv_initInP4, by decide⟩

theorem test_witness_ReachableStatesSatisfyR39 :
    Reachable { State.resetOf strict with host := [0x000], inputs := [.present] } ∧
    nextHas (step { State.resetOf strict with host := [0x000], inputs := [.present] }) (fun t => t.busy) = true :=
  ⟨.reset strict _ _ (by decide), by decide⟩

/-- R39 (g): an `oe` bit set by INIT, and cleared by reset. -/
theorem test_witness_InvariantGivesR39 :
    initInP4.Inv ∧ nextHas (cycle .reset initInP4) (fun t => !t.oe.rs) = true ∧
    nextHas (cycle .quiet ((State.resetOf strict).accepted 0x000 .initializing)) (fun t => t.oe.rs) = true :=
  ⟨test_inv_initInP4, by decide, by decide⟩

theorem test_witness_StepsNeverStopUnderTheInvariant : initInP4.Inv ∧ inPulse.Inv ∧ ready.Inv :=
  ⟨test_inv_initInP4, test_inv_inPulse, test_inv_ready⟩

theorem test_witness_TraceOfACommandIsItsExpansion :
    (initInP4.dly = true → initInP4.busy = true) ∧ initInP4.TraceInFlight ∧
    nextHas (cycle .timer initInP4) (fun t => t.busy) = true :=
  ⟨by decide, fun _ => List.suffix_of_suffix_length_le (List.suffix_refl _) (List.suffix_refl _) (by decide), by decide⟩

theorem test_witness_ParametersNeverChange :
    nextHas (step initInP4) (fun _ => true) = true ∧ nextHas (exec .clear ready) (fun _ => true) = true := by decide

theorem test_witness_IllFormedConfigurationIsRefused :
    ({ ready with cfg := { Config.default with pinEn := 0 } } : State).cfg.wf = false ∧
    refusedBy (step { ready with cfg := { Config.default with pinEn := 0 } }) .illFormedConfig = true := by decide

theorem test_witness_StepRunsTheDecodedInstruction :
    ready.cfg.wf = true ∧ ready.busy = false ∧
    ({ ready with inputs := [.present] } : State).nextInputs.rst = false ∧
    ({ ready with inputs := [.present] } : State).nextInputs.cmdValid = true ∧ decode 0x201 = .ok (.setcur 1) := by decide

theorem test_witness_FetchWordRunsNext :
    initInP4.cfg.wf = true ∧ decodeTableWord 16 0x000 = some .init ∧ decodeTableWord 16 0x5FF = some (.sendd 0xFF) := by decide

theorem test_witness_IdleBlockHoldsEverything :
    ready.cfg.wf = true ∧ ready.busy = false ∧ Inputs.timer.rst = false ∧ Inputs.timer.cmdValid = false ∧
    Inputs.present.rst = false ∧ ready.host = [] ∧
    nextHas (cycle .present { ready with host := [0x201] }) (fun t => t.x == ready.x && t.busy) = true ∧
    nextHas (cycle .present { ready with host := [0x300] }) (fun t => t.x == ready.x && !t.busy) = true := by decide

theorem test_witness_ResetStateValues : pulseConfig.wf = true ∧ (withActive Config.default .low).wf = true := by decide

theorem test_witness_BusyBlockTakesNoWord :
    initInP4.busy = true ∧ nextHas (cycle ⟨false, true, true⟩ { initInP4 with host := [0x100] }) (fun t => t.host == [0x100]) = true ∧
    nextHas (cycle ⟨true, true, false⟩ { initInP4 with host := [0x100] }) (fun t => t.host == [0x100]) = true := by decide

theorem test_witness_CommandsWaitWhileBusy : initInP4.cfg.wf = true ∧ initInP4.busy = true := by decide

theorem test_witness_WaitsForTheTimerForEver :
    initInP4.cfg.wf = true ∧ initInP4.busy = true ∧ initInP4.dly = true ∧ [Inputs.present, Inputs.quiet] ≠ [] ∧
    ∀ i ∈ [Inputs.present, Inputs.quiet], i.rst = false ∧ i.tmrDone = false := by decide

theorem test_witness_TimerDoneIgnoredUnlessAwaited : ready.dly = false ∧ (inFlight 0x100 3 false false).dly = false := by decide

theorem test_witness_PerformStepPerformsOneMicroOperation :
    ready.cfg.wf = true ∧ (inFlight 0x100 3 false false).busy = true ∧ (inFlight 0x100 3 false false).dly = false ∧
    (expand Config.default 0x100)[3]? = some (.delay 1000) ∧ (expand Config.default 0x100)[0]? = some (.rs false) ∧
    (expand Config.default 0x201)[14]? = some (.delay 1000) := by decide

theorem test_witness_TimerDoneStepEndsDelayOrPulse :
    (initInP4.busy = true ∧ initInP4.dly = true ∧ (expand initInP4.cfg initInP4.cmdr)[initInP4.upc.toNat]? = some (.delay 1000)) ∧
    (inPulse.busy = true ∧ inPulse.dly = true ∧ (expand inPulse.cfg inPulse.cmdr)[inPulse.upc.toNat]? = some (.pulse 1000) ∧
      inPulse.x.en = enAct inPulse.cfg ∧ inPulse.cfg.wf = true) := by decide

theorem test_witness_AdvanceAndRetirement :
    (initInP4.busy = true ∧ nextHas (cycle .timer initInP4) (fun t => t.busy) = true) ∧
    (initLast.busy = true ∧ nextHas (cycle .timer initLast) (fun t => !t.busy && t.upc == 103) = true) ∧
    nextHas (cycle .quiet initInP4) (fun t => t.upc == 11) = true := by decide

theorem test_witness_MicroOperationEffects : ready.x.en = enIdle ready.cfg := by decide

theorem test_witness_LatchedStreamGrowsAtTheLatchingEdge :
    nextHas (cycle .timer inPulse) (fun t => t.latched == [.nibble false 2]) = true ∧
    nextHas (cycle .reset inPulse) (fun t => t.latched == [.undriven]) = true ∧
    nextHas (cycle .timer initLast) (fun t => t.latched == []) = true := by decide

theorem test_witness_LinesHeldWhileEnIsActive :
    inPulse.Inv ∧ inPulse.x.en = enAct inPulse.cfg ∧ Inputs.timer.rst = false ∧
    nextHas (cycle .timer inPulse) (fun _ => true) = true :=
  ⟨test_inv_inPulse, by decide, by decide, by decide⟩

theorem test_witness_LifecycleTransitions :
    initLast.Inv ∧ ready.Inv ∧ nextHas (cycle .timer initLast) (fun t => t.life == .ready) = true ∧
    nextHas (cycle .reset initLast) (fun t => t.life == .uninitialized) = true ∧
    nextHas (cycle .present { ready with host := [0x000] }) (fun t => t.life == .initializing) = true ∧
    nextHas (cycle .present { ready with host := [0x001] }) (fun t => t.life == .ready) = true :=
  ⟨test_inv_initLast, test_inv_ready, by decide, by decide, by decide, by decide⟩

theorem test_witness_PadsShowTheLatchesWhenReady :
    ready.Inv ∧ ready.life = .ready ∧ ready.oe.get .d5 = true ∧ State.reset.oe.get .d5 = false :=
  ⟨test_inv_ready, by decide, by decide, by decide⟩

theorem test_witness_NotInitializedChangesNothing :
    strict.wf = true ∧ (State.resetOf strict).busy = false ∧ (State.resetOf strict).cfg.strictInit = true ∧
    (State.resetOf strict).life ≠ .ready := by decide

theorem test_witness_IllegalCommandChangesNothing :
    ready.cfg.wf = true ∧ ready.busy = false ∧ ({ ready with host := [0x2FF] } : State).host = 0x2FF :: [] ∧
    legal 0x2FF = false ∧ legal 0x300 = false ∧ legal 0x7FF = false := by decide

theorem test_witness_WrlineWithoutExpansionIsRefused :
    ready.cfg.wf = true ∧ 2 ≤ 2 ∧ (∃ ch ∈ [0x48, 256], 256 ≤ ch) ∧
    refusedBy (exec (.wrline [] 2) ready) .noExpansion = true ∧
    refusedBy (exec (.wrline [0x48, 256] 0) ready) .noExpansion = true := by decide

/-- Also for RepeatedInitEndsInTheSameState: right after reset, and from Ready. -/
theorem test_witness_InitCompletes :
    (State.reset.cfg.wf = true ∧ State.reset.busy = false ∧ State.reset.dly = false ∧ State.reset.x.en = enIdle State.reset.cfg) ∧
    (ready.cfg.wf = true ∧ ready.busy = false ∧ ready.dly = false ∧ ready.x.en = enIdle ready.cfg) := by decide

theorem test_witness_RepeatedInitEndsInTheSameState :
    pulseConfig.wf = true ∧ (State.resetOf pulseConfig).busy = false ∧ (State.resetOf pulseConfig).dly = false ∧
    (State.resetOf pulseConfig).x.en = enIdle pulseConfig := by decide

theorem test_witness_ClearCompletes : ready.takesCommands ∧ ({ ready with cfg := strict } : State).takesCommands := by
  unfold State.takesCommands; decide

theorem test_witness_SetcurCompletes : ready.takesCommands ∧ ({ ready with cfg := pulseConfig } : State).takesCommands := by
  unfold State.takesCommands; decide

theorem test_witness_ByteSendsComplete : State.reset.takesCommands ∧ ready.takesCommands := by
  unfold State.takesCommands; decide

theorem test_witness_SendNibbleCompletes :
    (inFlight 0x548 8 false false).cfg.wf = true ∧ (inFlight 0x548 8 false false).busy = true ∧
    (inFlight 0x548 8 false false).dly = false ∧
    (inFlight 0x548 8 false false).x.en = enIdle (inFlight 0x548 8 false false).cfg := by decide

theorem test_witness_SendByteCompletes :
    (inFlight 0x548 0 false false).cfg.wf = true ∧ (inFlight 0x548 0 false false).busy = true ∧
    (inFlight 0x548 0 false false).dly = false ∧
    (inFlight 0x548 0 false false).x.en = enIdle (inFlight 0x548 0 false false).cfg := by decide

theorem test_witness_InternalOperationsNeedABusyBlock :
    ready.cfg.wf = true ∧ ready.busy = false ∧ initInP4.cfg.wf = true ∧ initInP4.dly = true := by decide

/-- SEND_NIBBLE(4) heads the rest of SENDD 'H' at `upc` 1, SEND_BYTE(0x01, 0) the rest of CLEAR at `upc` 0. -/
theorem test_witness_InternalOperationsAreTheBlocksSteps :
    (expand Config.default 0x548).drop 1 = uopsOf Config.default (.sendNibble 4) ++ uopsOf Config.default (.sendNibble 8) ∧
    (expand Config.default 0x100).drop 0 = uopsOf Config.default (.sendByte 0x01 .instruction) ++ [.delay 10000] ∧
    (inFlight 0x548 1 false false).busy = true ∧ (inFlight 0x548 1 false false).dly = false := by decide

theorem test_witness_BlockPerformsTheRestAndRetires :
    (inFlight 0x100 15 false false).cfg.wf = true ∧ (inFlight 0x100 15 false false).busy = true ∧
    (inFlight 0x100 15 false false).dly = false ∧ 15 < (expand Config.default 0x100).length := by decide

theorem test_witness_EveryCommandRetires : initInP4.Inv ∧ initInP4.busy = true := ⟨test_inv_initInP4, by decide⟩

theorem test_witness_ProgramRunIsOverOrAborted :
    (runProgram [.present, .quiet, .reset] { ready with host := [0x201] }).1 = .aborted ∧
    (runProgram [.timer] (inFlight 0x100 15 true false)).1 = .over := by decide

/-- The premises on `a`: one step to a state without work left, and one to a state with work left that a reset then cuts. -/
theorem test_witness_ProgramRunIsOverOrAborted_when :
    (∀ i ∈ [Inputs.timer], i.rst = false) ∧
    nextHas (runWith ([Inputs.timer].take 0) (inFlight 0x100 15 true false)) (fun v => !v.allDone) = true ∧
    nextHas (runWith [.timer] (inFlight 0x100 15 true false)) (fun u => u.host.isEmpty && !u.busy) = true ∧
    nextHas (runWith ([Inputs.timer].take 0) (inFlight 0x100 14 true false)) (fun v => !v.allDone) = true ∧
    nextHas (runWith [.timer] (inFlight 0x100 14 true false)) (fun u =>
      u.host.isEmpty && u.busy && nextHas (cycle .reset u) (fun v => v.life == .uninitialized)) = true ∧
    Inputs.reset.rst = true := by decide

theorem test_witness_InitializerStatesFollowTheLifecycle :
    initLast.Inv ∧ initLast.life = .initializing ∧ nextHas (cycle .timer initLast) (fun t => t.life == .ready) = true :=
  ⟨test_inv_initLast, by decide, by decide⟩

theorem test_witness_WrlineExpandsIntoItsWords :
    initInP4.cfg.wf = true ∧ 1 < 2 ∧ ∀ ch ∈ [0, 0x48, 255], ch < 256 := by decide

theorem test_witness_WrlineSendsEveryCharacter :
    ready.takesCommands ∧ 1 < 2 ∧ ∀ ch ∈ [0x48, 255], ch < 256 := by
  unfold State.takesCommands; decide

theorem test_witness_CommandBeforeInitRunsUndriven : Config.default.wf = true ∧ Config.default.strictInit = false := by decide

theorem test_witness_NestedMachinesAgreeWithTheExpansion :
    decode 0x000 = .ok .init ∧ decode 0x100 = .ok .clear ∧ decode 0x201 = .ok (.setcur 1) ∧ decode 0x480 = .ok (.sendi 0x80) := by
  decide

/-- Also for BothStrategiesLatchOneStream. -/
theorem test_witness_BothStrategiesHaveOneWaveform : Lines.off.en = enIdle Config.default := by decide

theorem test_witness_BothStrategiesLatchOneStream : ready.x.en = enIdle ready.cfg := by decide

theorem test_witness_ClearIsFollowedByItsDelay : Config.default.wf = true ∧ pulseConfig.wf = true := by decide

theorem test_witness_NibblePulseContract : (withActive Config.default .low).wf = true ∧ pulseConfig.wf = true := by decide

end Sys2Proof.Tests
end

section
/-! PROOFS. The configuration record (spec/00_scope.md R5, R6; 10_state.md R27): no step and no instruction writes it, and nothing
has a meaning while it is ill-formed. Every instruction goes through one of three gates (`exec_gate_cases`), and both facts are
proved once per gate. -/

namespace Sys2Proof.Machine

/-- Accepting a word or answering `NotInitialized` leaves the configuration alone. -/
@[simp] theorem State.takeIfReady_cfg (cw : CmdWord) (s : State) : (s.takeIfReady cw).cfg = s.cfg := by
  unfold State.takeIfReady; split <;> simp

/-- Accepting INIT leaves the configuration alone. -/
theorem State.takeInit_cfg (s : State) : ({ s with life := .initializing }.take 0x000).cfg = s.cfg := rfl

/-- The three gates of a meaning: a word at the command port, an internal operation's list, the host's expansion of WRLINE. -/
theorem exec_gate_cases (i : Instr) (s : State) :
    (∃ answer : State → State, (∀ t, (answer t).cfg = t.cfg) ∧ exec i s = s.atPort answer) ∨
    (∃ us, exec i s = s.runInternal us) ∨
    (∃ text line, exec i s = execWrline text line s) := by
  have port : ∀ cw, exec i s = s.atPort (State.takeIfReady cw) →
      ∃ answer : State → State, (∀ t, (answer t).cfg = t.cfg) ∧ exec i s = s.atPort answer :=
    fun cw h => ⟨_, State.takeIfReady_cfg cw, h⟩
  cases i with
  | init => exact .inl ⟨_, State.takeInit_cfg, rfl⟩
  | clear => exact .inl (port _ rfl)
  | setcur line => exact .inl (port _ rfl)
  | sendi value => exact .inl (port _ rfl)
  | sendd value => exact .inl (port _ rfl)
  | sendb value mode => cases mode <;> exact .inl (port _ rfl)
  | sendByte v m => exact .inr (.inl ⟨_, rfl⟩)
  | sendNibble n => exact .inr (.inl ⟨_, rfl⟩)
  | wrline text line => exact .inr (.inr ⟨text, line, rfl⟩)

/- No gate, and so no instruction and no step, writes the configuration (R5, R27). -/

/-- The command port keeps the configuration if the answer does. -/
theorem State.atPort_keeps_cfg {answer : State → State} (hans : ∀ t, (answer t).cfg = t.cfg) {s t : State}
    (h : s.atPort answer = .next t) : t.cfg = s.cfg := by
  unfold State.atPort at h
  split_ifs at h <;> cases h
  · rfl
  · exact hans s

/-- An internal operation keeps the configuration. -/
theorem State.runInternal_keeps_cfg {us : List Uop} {s t : State} (h : s.runInternal us = .next t) : t.cfg = s.cfg := by
  unfold State.runInternal at h
  split_ifs at h <;> cases h
  · exact (State.runUops_frame us s).1
  · rfl

/-- WRLINE keeps the configuration. -/
theorem execWrline_keeps_cfg {text : List Nat} {line : Nat} {s t : State} (h : execWrline text line s = .next t) :
    t.cfg = s.cfg := by
  unfold execWrline at h
  split_ifs at h
  cases h
  rfl

/-- Every instruction keeps the configuration. -/
theorem exec_keeps_cfg {i : Instr} {s t : State} (h : exec i s = .next t) : t.cfg = s.cfg := by
  obtain ⟨answer, hans, hi⟩ | ⟨us, hi⟩ | ⟨text, line, hi⟩ := exec_gate_cases i s <;> rw [hi] at h
  · exact State.atPort_keeps_cfg hans h
  · exact State.runInternal_keeps_cfg h
  · exact execWrline_keeps_cfg h

/-- Every step keeps the configuration, whatever the levels of the ports. -/
theorem cycle_keeps_cfg {inp : Inputs} {s t : State} (h : cycle inp s = .next t) : t.cfg = s.cfg := by
  obtain ⟨-, hreset | hwait | htimer | htimed | huntimed | hidle | hword⟩ := cycle_cases inp s t h
  · obtain ⟨-, rfl⟩ := hreset
    simp
  · obtain ⟨-, -, -, -, rfl⟩ := hwait
    simp
  · obtain ⟨-, -, -, u, -, -, rfl⟩ := htimer
    simp
  · obtain ⟨-, -, -, u, -, -, rfl⟩ := htimed
    simp
  · obtain ⟨-, -, -, u, -, -, rfl⟩ := huntimed
    simp
  · obtain ⟨-, -, -, rfl⟩ := hidle
    simp
  · obtain ⟨-, -, -, cw, rest, -, ⟨e, -, rfl⟩ | ⟨i, -, hi⟩⟩ := hword
    · simp
    · exact (exec_keeps_cfg hi).trans s.clearOuts_cfg

/-- Settles O14: a step is a `cycle` at the next port levels, and every one of its cases keeps the configuration. -/
theorem parametersNeverChange : Obligations.ParametersNeverChange := by
  intro s t
  refine ⟨fun h => ?_, fun _ => exec_keeps_cfg⟩
  rw [step_cycle] at h
  exact (cycle_keeps_cfg h).trans rfl

/- Every gate, and so every instruction and every step, refuses an ill-formed configuration (R6; log 3). -/

/-- Every instruction is refused under an ill-formed configuration. -/
theorem exec_of_illFormed (i : Instr) {s : State} (hw : s.cfg.wf = false) : exec i s = .refused .illFormedConfig := by
  obtain ⟨answer, -, hi⟩ | ⟨us, hi⟩ | ⟨text, line, hi⟩ := exec_gate_cases i s <;> rw [hi]
  · simp [State.atPort, hw]
  · simp [State.runInternal, hw]
  · simp [execWrline, hw]

/-- Every step is refused under an ill-formed configuration, a reset step included. -/
theorem cycle_of_illFormed (inp : Inputs) {s : State} (hw : s.cfg.wf = false) :
    cycle inp s = .refused .illFormedConfig := by
  simp [cycle, hw]

/-- Settles O15: `cycle` and each gate of `exec` look at the configuration first. -/
theorem illFormedConfigurationIsRefused : Obligations.IllFormedConfigurationIsRefused := by
  intro s hw
  refine ⟨?_, fun i => exec_of_illFormed i hw⟩
  rw [step_cycle]
  exact cycle_of_illFormed _ hw

end Sys2Proof.Machine
end

section
/-! PROOFS. The steps of the sequencer (spec/10_state.md R34 to R38): what an idle block does, what a busy one does in each of its
three steps, and how a command advances and retires. -/

namespace Sys2Proof.Machine

/- An idle block (R34, R38) -/

/-- The accept step of a word that decodes. -/
theorem cycle_accept {inp : Inputs} {s : State} {cw : CmdWord} {rest : List CmdWord} {i : Instr} (hw : s.cfg.wf = true)
    (hb : s.busy = false) (hr : inp.rst = false) (hv : inp.cmdValid = true) (hh : s.host = cw :: rest)
    (hi : decode cw = .ok i) : cycle inp s = exec i { s.clearOuts with host := rest } := by
  simp [cycle, State.acceptWord, hw, hb, hr, hv, hh, hi]

/-- An idle block to which no word is presented waits. -/
theorem cycle_idle_hold {inp : Inputs} {s : State} (hw : s.cfg.wf = true) (hb : s.busy = false) (hr : inp.rst = false)
    (hn : inp.cmdValid = false ∨ s.host = []) : cycle inp s = .next s.clearOuts := by
  obtain hv | hh := hn
  · simp [cycle, hw, hb, hr, hv]
  · simp [cycle, hw, hb, hr, hh]

/-- Settles O16: `step` is a `cycle` at the next port levels, and this one is an accept step. -/
theorem stepRunsTheDecodedInstruction : Obligations.StepRunsTheDecodedInstruction := by
  intro s i cw rest hw hb hr hv hh hi
  rw [step_cycle]
  exact cycle_accept hw hb hr hv hh hi

/-- A table word decodes as the command word of its 11 bits. -/
theorem decode_of_decodeTableWord {nbits w : Nat} {i : Instr} (h : decodeTableWord nbits w = some i) :
    decode (BitVec.ofNat 11 w) = .ok i := by
  unfold decodeTableWord at h
  split_ifs at h
  split at h
  · cases h
    assumption
  · cases h

/-- Settles O17: the loader's state is idle with the word presented, so O16's statement applies to it. -/
theorem fetchWordRunsNext : Obligations.FetchWordRunsNext := by
  intro s nbits w i hw hi
  exact stepRunsTheDecodedInstruction (s.withFetchWord nbits w) i (BitVec.ofNat 11 w) s.host hw rfl rfl rfl rfl
    (decode_of_decodeTableWord hi)

/-- Settles O18: an idle block can only wait or answer a word, and neither writes a latch or an `oe` bit. -/
theorem idleBlockHoldsEverything : Obligations.IdleBlockHoldsEverything := by
  intro inp s hw hb hr
  refine ⟨cycle_idle_hold hw hb hr, fun t ht => ?_⟩
  obtain ⟨-, hreset | hwait | htimer | htimed | huntimed | hidle | hword⟩ := cycle_cases inp s t ht
  · simp [hr] at hreset
  · simp [hb] at hwait
  · simp [hb] at htimer
  · simp [hb] at htimed
  · simp [hb] at huntimed
  · obtain ⟨-, -, -, rfl⟩ := hidle
    simp
  · obtain ⟨-, -, -, cw, rest, -, ⟨e, -, rfl⟩ | ⟨i, hi, hx⟩⟩ := hword
    · simp
    · obtain ⟨-, ⟨-, rfl⟩ | ⟨-, -, -, rfl⟩ | ⟨-, -, w, -, -, rfl⟩⟩ :=
        exec_idle_cases i cw { s.clearOuts with host := rest } t hb hi hx <;> simp

/- A command at a busy block, and an internal operation where none may perform (logs 10, 11) -/

/-- A busy block does not answer at the port. -/
theorem State.atPort_busy (answer : State → State) {s : State} (hw : s.cfg.wf = true) (hb : s.busy = true) :
    s.atPort answer = .next s := by
  simp [State.atPort, hw, hb]

/-- Settles O20: all six commands go through the port, which a busy block does not answer. -/
theorem commandsWaitWhileBusy : Obligations.CommandsWaitWhileBusy := by
  intro s line v m hw hb
  have port (answer : State → State) : s.atPort answer = .next s := State.atPort_busy answer hw hb
  cases m <;> simp only [exec, execInit, execClear, execSetcur, execSendi, execSendd, execSendb, port, and_self]

/-- Where the block may not perform, an internal operation performs nothing. -/
theorem State.runInternal_of_not_performing (us : List Uop) {s : State} (hw : s.cfg.wf = true)
    (h : s.busy = false ∨ s.dly = true) : s.runInternal us = .next s := by
  obtain hb | hd := h
  · simp [State.runInternal, hw, hb]
  · simp [State.runInternal, hw, hd]

/-- Settles O42: both internal operations go through the same gate. -/
theorem internalOperationsNeedABusyBlock : Obligations.InternalOperationsNeedABusyBlock := fun _ _ _ _ hw h =>
  ⟨State.runInternal_of_not_performing _ hw h, State.runInternal_of_not_performing _ hw h⟩

/- A busy block (R35, R36) -/

/-- The perform step. -/
theorem cycle_perform {inp : Inputs} {s : State} {u : Uop} (hw : s.cfg.wf = true) (hb : s.busy = true) (hd : s.dly = false)
    (hr : inp.rst = false) (hu : s.current = some u) :
    cycle inp s = .next (if u.timed then s.clearOuts.emit u else (s.clearOuts.emit u).advance) := by
  have hcur : s.clearOuts.current = some u := hu
  rw [cycle_busy inp s hw hb hr]
  cases ht : u.timed <;> simp [hd, State.perform, hcur, ht]

/-- The timer-done step. -/
theorem cycle_timerDone {inp : Inputs} {s : State} {u : Uop} (hw : s.cfg.wf = true) (hb : s.busy = true) (hd : s.dly = true)
    (hr : inp.rst = false) (hdone : inp.tmrDone = true) (hu : s.current = some u) (ht : u.timed = true) :
    cycle inp s = .next (s.clearOuts.endTimer u).advance := by
  have hcur : s.clearOuts.current = some u := hu
  rw [cycle_busy inp s hw hb hr]
  simp [hd, hdone, State.timerDone, hcur, ht]

/-- A step in which the block waits for the timing capability. -/
theorem cycle_wait {inp : Inputs} {s : State} (hw : s.cfg.wf = true) (hb : s.busy = true) (hd : s.dly = true)
    (hr : inp.rst = false) (hdone : inp.tmrDone = false) : cycle inp s = .next s.clearOuts := by
  rw [cycle_busy inp s hw hb hr]
  simp [hd, hdone]

/-- Settles O23: the perform step, `clearOuts` written out. -/
theorem performStepPerformsOneMicroOperation : Obligations.PerformStepPerformsOneMicroOperation :=
  fun _ _ _ _ hw hb hd hu => cycle_perform hw hb hd rfl hu

/-- The latching edge (20_memory.md R61): EN goes from active to idle. -/
theorem State.writeEn_idle_of_active {s : State} (he : s.x.en = enAct s.cfg) :
    s.writeEn (enIdle s.cfg) = { s with x := { s.x with en := enIdle s.cfg }, latched := s.latched ++ [s.latchItem] } := by
  simp [State.writeEn, he]

/-- What is latched, in the words of 20_memory.md R61. -/
theorem State.latchItem_eq (s : State) :
    s.latchItem = if s.oe = Lines.on then .nibble s.x.rs s.x.data else .undriven := by
  simp only [State.latchItem, Lines.allOn_iff]

/-- Settles O24: the timer-done step, with the latching edge of a PULSE. -/
theorem timerDoneStepEndsDelayOrPulse : Obligations.TimerDoneStepEndsDelayOrPulse := by
  intro s valid t hw hb hd
  refine ⟨fun hu => cycle_timerDone hw hb hd rfl rfl hu rfl, fun hu he => ?_⟩
  rw [cycle_timerDone hw hb hd rfl rfl hu rfl, State.endTimer, State.writeEn_idle_of_active (s := s.clearOuts) he,
    State.latchItem_eq]
  rfl

/-- Settles O21, by induction on the steps waited. -/
theorem waitsForTheTimerForEver : Obligations.WaitsForTheTimerForEver := by
  intro ins
  induction ins with
  | nil => intro s _ _ _ hne; exact absurd rfl hne
  | cons i rest ih =>
    intro s hw hb hd _ hq
    obtain ⟨⟨hr, hdone⟩, hrest⟩ := List.forall_mem_cons.mp hq
    simp only [runWith, cycle_wait hw hb hd hr hdone]
    cases rest with
    | nil => rfl
    | cons j rest => exact ih s.clearOuts hw hb hd (List.cons_ne_nil _ _) hrest

/- Advance and retirement (R37) -/

/-- `advance` retires exactly when `upc` reaches the length of the expansion. -/
theorem State.advance_busy {s : State} (hb : s.busy = true) :
    s.advance.busy = false ↔ (s.upc + 1).toNat = (expand s.cfg s.cmdr).length := by
  rw [advance_eq]
  split_ifs with h
  · simpa using h
  · simpa [hb] using h

/-- `life` changes only when INIT retires. -/
theorem State.advance_life {s : State} (hb : s.busy = true) :
    s.advance.life = if s.advance.busy = false ∧ isInit s.cmdr = true then .ready else s.life := by
  rw [advance_eq]
  split_ifs <;> simp_all

/-- The sequencer's registers are the same in `s` and `t`. -/
structure SameSequencer (s t : State) : Prop where
  cfg : t.cfg = s.cfg
  life : t.life = s.life
  busy : t.busy = s.busy
  cmdr : t.cmdr = s.cmdr
  upc : t.upc = s.upc

theorem SameSequencer.clearOuts (s : State) : SameSequencer s s.clearOuts := ⟨rfl, rfl, rfl, rfl, rfl⟩

theorem SameSequencer.emit (s : State) (u : Uop) : SameSequencer s (s.clearOuts.emit u) := by
  constructor <;> simp

theorem SameSequencer.endTimer (s : State) (u : Uop) : SameSequencer s (s.clearOuts.endTimer u) := by
  constructor <;> simp

/-- The step from a busy `s` to `t` holds `upc` or counts it up, and retires exactly at the end of the expansion. -/
def RetiresAtTheEnd (s t : State) : Prop :=
  (t.upc = s.upc ∨ t.upc = s.upc + 1) ∧
  (t.busy = false ↔ t.upc = s.upc + 1 ∧ t.upc.toNat = (expand s.cfg s.cmdr).length) ∧
  t.life = (if t.busy = false ∧ isInit s.cmdr = true then .ready else s.life)

/-- A step that leaves the sequencer alone retires nothing. -/
theorem SameSequencer.retiresAtTheEnd {s t : State} (h : SameSequencer s t) (hb : s.busy = true) :
    RetiresAtTheEnd s t := by
  simp [RetiresAtTheEnd, h.busy, h.upc, h.life, hb]

/-- So does `advance` after a micro-operation. -/
theorem SameSequencer.retiresAtTheEnd_advance {s t : State} (h : SameSequencer s t) (hb : s.busy = true) :
    RetiresAtTheEnd s t.advance := by
  have hbt : t.busy = true := h.busy.trans hb
  refine ⟨.inr (by simp [h.upc]), ?_, ?_⟩
  · simp [State.advance_busy hbt, h.cfg, h.cmdr, h.upc]
  · rw [State.advance_life hbt, h.cmdr, h.life]

/-- Settles O25: a busy block waits, starts a timer, or advances after a micro-operation. -/
theorem advanceAndRetirement : Obligations.AdvanceAndRetirement := by
  intro inp s t hb hr h
  obtain ⟨-, hreset | hwait | htimer | htimed | huntimed | hidle | hword⟩ := cycle_cases inp s t h
  · simp [hr] at hreset
  · obtain ⟨-, -, -, -, rfl⟩ := hwait
    exact SameSequencer.retiresAtTheEnd (.clearOuts s) hb
  · obtain ⟨-, -, -, u, -, -, rfl⟩ := htimer
    exact SameSequencer.retiresAtTheEnd_advance (.endTimer s u) hb
  · obtain ⟨-, -, -, u, -, -, rfl⟩ := htimed
    exact SameSequencer.retiresAtTheEnd (.emit s u) hb
  · obtain ⟨-, -, -, u, -, -, rfl⟩ := huntimed
    exact SameSequencer.retiresAtTheEnd_advance (.emit s u) hb
  · simp [hb] at hidle
  · simp [hb] at hword

/-- The rest `us` of an expansion is performed in order and the command retires. -/
theorem runTimed_rest (us : List Uop) (s : State) (hw : s.cfg.wf = true) (hb : s.busy = true) (hd : s.dly = false)
    (hus : us ≠ []) (hdrop : (expand s.cfg s.cmdr).drop s.upc.toNat = us) :
    runTimed (stepsFor us) s = .next (s.runUops us).retire := by
  induction us generalizing s with
  | nil => exact absurd rfl hus
  | cons u rest ih =>
    obtain ⟨hlt, hu, hrest⟩ := current_of_drop s u rest hdrop
    have hlast : (s.upc + 1).toNat = (expand s.cfg s.cmdr).length ↔ rest = [] := by
      rw [← hrest, List.drop_eq_nil_iff, upc_succ s hlt]
      omega
    have hone := one_uop s u hw hb hd hu
    rw [stepsFor_cons, State.runUops_cons]
    cases rest with
    | nil =>
      rw [if_pos (hlast.mpr rfl)] at hone
      exact hone
    | cons v vs =>
      rw [if_neg (fun h => List.cons_ne_nil v vs (hlast.mp h))] at hone
      rw [runTimed_add _ _ _ _ hone]
      exact ih (s.runUop u) (by simpa using hw) (by simpa using hb) (runUop_dly s u hd) (List.cons_ne_nil v vs)
        (by simpa using hrest)

/-- Settles O44, by induction on the rest of the expansion. -/
theorem blockPerformsTheRestAndRetires : Obligations.BlockPerformsTheRestAndRetires := by
  intro s hw hb hd hlt
  refine runTimed_rest _ s hw hb hd (fun h => ?_) rfl
  rw [List.drop_eq_nil_iff] at h
  omega

end Sys2Proof.Machine
end

section
/-! PROOFS. The level of EN along an expansion (spec/10_state.md R39 (e), (f); 40_pulse_controller.md R113): where it is active, what
the pulse controller's phase is there, and that RS and the data lines are written only where it is idle. The facts are kept
under concatenation, so each expansion has them because a nibble has. -/

namespace Sys2Proof.Machine

/-- The level of EN after `u`, performed to its end from the level `l`. -/
def Uop.levelFrom (c : Config) (l : Bool) (u : Uop) : Bool :=
  match u with
  | .en b => b
  | .pulse _ => enIdle c
  | _ => l

/-- `levelFrom` is the step of `levelAfter`. -/
theorem levelAfter_eq_foldl (c : Config) (us : List Uop) : levelAfter c us = us.foldl (Uop.levelFrom c) (enIdle c) := rfl

theorem levelAfter_concat (c : Config) (us : List Uop) (u : Uop) :
    levelAfter c (us ++ [u]) = u.levelFrom c (levelAfter c us) := by
  simp only [levelAfter_eq_foldl, List.foldl_append, List.foldl_cons, List.foldl_nil]

/-- What holds where `u` is performed from the level `l` of EN in the phase `ph`: an active level shows in the phase, a PULSE too,
and RS and the data lines are written while EN is idle. -/
def EnAt (c : Config) (l : Bool) (u : Uop) (ph : PulsePhase) : Prop :=
  (l = enAct c → ph = .p4Width ∨ ph = .p5Fall) ∧ (∀ t, u = .pulse t → ph = .q2Pulse) ∧
    (u.writesLines = true → l = enIdle c)

/-- `EnAt` all along the micro-operations `us` in the phases `ps`, from the level `l` of EN to idle. -/
inductive EnProfile (c : Config) : Bool → List Uop → List PulsePhase → Prop
  | nil : EnProfile c (enIdle c) [] []
  | cons {l : Bool} {u : Uop} {ph : PulsePhase} {us : List Uop} {ps : List PulsePhase} (hat : EnAt c l u ph)
      (hrest : EnProfile c (u.levelFrom c l) us ps) : EnProfile c l (u :: us) (ph :: ps)

@[simp] theorem enProfile_nil_iff {c : Config} {l : Bool} : EnProfile c l [] [] ↔ l = enIdle c := by
  refine ⟨fun h => ?_, fun h => h ▸ .nil⟩
  cases h
  rfl

@[simp] theorem enProfile_cons_iff {c : Config} {l : Bool} {u : Uop} {ph : PulsePhase} {us : List Uop}
    {ps : List PulsePhase} :
    EnProfile c l (u :: us) (ph :: ps) ↔ EnAt c l u ph ∧ EnProfile c (u.levelFrom c l) us ps := by
  refine ⟨fun h => ?_, fun ⟨hat, hrest⟩ => .cons hat hrest⟩
  cases h with
  | cons hat hrest => exact ⟨hat, hrest⟩

/-- One list after the other. -/
theorem EnProfile.append {c : Config} {us vs : List Uop} {l : Bool} {ps qs : List PulsePhase} (hu : EnProfile c l us ps)
    (hv : EnProfile c (enIdle c) vs qs) : EnProfile c l (us ++ vs) (ps ++ qs) := by
  induction hu with
  | nil => exact hv
  | cons hat _ ih => exact .cons hat ih

/-- Many lists one after the other. -/
theorem EnProfile.flatMap {α : Type} {c : Config} {f : α → List Uop} {g : α → List PulsePhase}
    (h : ∀ a, EnProfile c (enIdle c) (f a) (g a)) (as : List α) :
    EnProfile c (enIdle c) (as.flatMap f) (as.flatMap g) := by
  induction as with
  | nil => exact .nil
  | cons a as ih => simpa only [List.flatMap_cons] using (h a).append ih

/-- A profile ends with EN idle. -/
theorem EnProfile.ends_idle {c : Config} {us : List Uop} {l : Bool} {ps : List PulsePhase} (h : EnProfile c l us ps) :
    us.foldl (Uop.levelFrom c) l = enIdle c := by
  induction h with
  | nil => rfl
  | cons _ _ ih => exact ih

/-- A profile at one index. -/
theorem EnProfile.at_index {c : Config} {us : List Uop} {l : Bool} {ps : List PulsePhase} (h : EnProfile c l us ps) {k : Nat}
    {u : Uop} (hk : us[k]? = some u) : ∃ ph, ps[k]? = some ph ∧ EnAt c ((us.take k).foldl (Uop.levelFrom c) l) u ph := by
  induction h generalizing k with
  | nil => simp at hk
  | @cons l v ph us ps hat _ ih =>
    cases k with
    | zero =>
      obtain rfl : v = u := by simpa using hk
      exact ⟨ph, rfl, hat⟩
    | succ k => exact ih hk

/-- The phases of a nibble (40_pulse_controller.md R113). -/
def nibblePhases (st : EnStrategy) : List PulsePhase := (List.range (nibbleLen st)).map (pulsePhaseAt st)

/-- The phases of a byte: none while RS is set, then those of its nibbles (41_byte_transmission.md R134). -/
def bytePhases (st : EnStrategy) : List PulsePhase := [.pIdle] ++ nibblePhases st ++ nibblePhases st

/-- The phases of a table entry, its delay included (42_init_sequencer.md R148). -/
def entryPhases (st : EnStrategy) (k : EntryKind) : List PulsePhase :=
  (match k with
    | .nib => nibblePhases st
    | .byte => bytePhases st)
  ++ [.pIdle]

/-- The kinds of the table's entries (30_encoding.md R85). -/
def initKinds : List EntryKind := [.nib, .nib, .nib, .nib, .byte, .byte, .byte, .byte]

/-- The phases of INIT: none in the prologue, then those of the entries (42_init_sequencer.md R148). -/
def initPhases (st : EnStrategy) : List PulsePhase := List.replicate 7 .pIdle ++ initKinds.flatMap (entryPhases st)

/-- A nibble pulses EN once, after its data are out. -/
theorem enProfile_nibble (c : Config) (n : Nibble) :
    EnProfile c (enIdle c) (sendNibbleUops c n) (nibblePhases c.enStrategy) := by
  have hne := enIdle_ne_enAct c
  unfold sendNibbleUops nibblePhases
  cases c.enStrategy <;>
    simp [nibbleLen, List.range_succ, pulsePhaseAt, EnAt, Uop.levelFrom, Uop.writesLines, hne]

/-- RS and a delay leave EN idle. -/
theorem enProfile_rs (c : Config) (b : Bool) : EnProfile c (enIdle c) [.rs b] [.pIdle] := by
  simp [EnAt, Uop.levelFrom, enIdle_ne_enAct]

theorem enProfile_delay (c : Config) (t : Nat) : EnProfile c (enIdle c) [.delay t] [.pIdle] := by
  simp [EnAt, Uop.levelFrom, enIdle_ne_enAct]

theorem enProfile_byte (c : Config) (v : Byte) (m : SendMode) :
    EnProfile c (enIdle c) (sendByteUops c v m) (bytePhases c.enStrategy) :=
  ((enProfile_rs c _).append (enProfile_nibble c _)).append (enProfile_nibble c _)

theorem enProfile_clear (c : Config) : EnProfile c (enIdle c) (clearUops c) (bytePhases c.enStrategy ++ [.pIdle]) :=
  (enProfile_byte c _ _).append (enProfile_delay c _)

theorem enProfile_entry (c : Config) (e : InitEntry) :
    EnProfile c (enIdle c) (entryUops c e) (entryPhases c.enStrategy e.kind) := by
  refine EnProfile.append ?_ (enProfile_delay c _)
  cases e.kind
  · exact enProfile_nibble c _
  · exact enProfile_byte c _ _

theorem enProfile_init (c : Config) : EnProfile c (enIdle c) (initUops c) (initPhases c.enStrategy) := by
  refine EnProfile.append ?_ (EnProfile.flatMap (enProfile_entry c) (initTable c))
  simp [initPrologue, List.replicate, EnAt, Uop.levelFrom, enIdle_ne_enAct]

/- The phases are those the views show (R113, R134, R148) -/

/-- The byte machine's phases. -/
theorem bytePhases_eq (st : EnStrategy) : bytePhases st = (List.range (byteLen st)).map (bytePhaseAt st) := by
  cases st <;> rfl

/-- The byte machine's phases, with the delay that follows the byte. -/
theorem bytePhases_concat_eq (st : EnStrategy) :
    bytePhases st ++ [.pIdle] = (List.range (byteLen st + 1)).map (bytePhaseAt st) := by
  cases st <;> rfl

/-- The initializer's phase at a value of `upc`, which depends on the configuration by its strategy only. -/
def initPhaseAt (st : EnStrategy) (upc : Nat) : PulsePhase :=
  match initEntryIndex (initStateAt st upc) with
  | none => .pIdle
  | some j => entryPhaseAt st (if j < 4 then .nib else .byte) (upc - initStateStart st (initStateAt st upc))

theorem commandPhase_init (c : Config) (upc : Nat) : commandPhase c .init upc = initPhaseAt c.enStrategy upc := by
  unfold commandPhase initPhaseAt
  generalize initStateAt c.enStrategy upc = i
  cases i <;> rfl

/-- The initializer's phases. -/
theorem initPhases_eq (st : EnStrategy) :
    initPhases st = (List.range (initPhases st).length).map (initPhaseAt st) := by
  cases st <;> decide

/- Every command -/

/-- What a command word can decode to (30_encoding.md R81). -/
theorem decode_cases {cw : CmdWord} {i : Instr} (h : decode cw = .ok i) :
    i = .init ∨ i = .clear ∨ (∃ line, i = .setcur line) ∨ (∃ v, i = .sendi v) ∨ ∃ v, i = .sendd v := by
  unfold decode at h
  dsimp only at h
  split_ifs at h <;> cases h <;> simp

/-- The expansion of a command, in the phases the pulse controller's view shows. -/
theorem enProfile_expand (c : Config) {cw : CmdWord} {i : Instr} (h : decode cw = .ok i) :
    ∃ n, EnProfile c (enIdle c) (expand c cw) ((List.range n).map (commandPhase c i)) := by
  have hx : expand c cw = uopsOf c i := by simp only [expand, h]
  rw [hx]
  obtain rfl | rfl | ⟨line, rfl⟩ | ⟨v, rfl⟩ | ⟨v, rfl⟩ := decode_cases h
  · refine ⟨(initPhases c.enStrategy).length, ?_⟩
    rw [funext (commandPhase_init c), ← initPhases_eq]
    exact enProfile_init c
  · exact ⟨_, bytePhases_concat_eq c.enStrategy ▸ enProfile_clear c⟩
  · exact ⟨_, bytePhases_eq c.enStrategy ▸ enProfile_byte c _ _⟩
  · exact ⟨_, bytePhases_eq c.enStrategy ▸ enProfile_byte c _ _⟩
  · exact ⟨_, bytePhases_eq c.enStrategy ▸ enProfile_byte c _ _⟩

/-- Every expansion ends with EN idle. -/
theorem levelAfter_expand (c : Config) (cw : CmdWord) : levelAfter c (expand c cw) = enIdle c := by
  cases h : decode cw with
  | error e => simp only [expand, h]; rfl
  | ok i =>
    obtain ⟨n, hp⟩ := enProfile_expand c h
    exact hp.ends_idle

/-- A word with a micro-operation in flight decodes. -/
theorem decode_of_current {s : State} {u : Uop} (hu : s.current = some u) : ∃ i, decode s.cmdr = .ok i := by
  cases h : decode s.cmdr with
  | error e => simp [State.current, expand, h] at hu
  | ok i => exact ⟨i, rfl⟩

/-- The micro-operation in flight is performed where `EnAt` allows it. -/
theorem State.enAt_current {s : State} {u : Uop} (hb : s.busy = true) (hu : s.current = some u) :
    EnAt s.cfg (levelAfter s.cfg ((expand s.cfg s.cmdr).take s.upc.toNat)) u s.pulsePhase := by
  obtain ⟨i, hi⟩ := decode_of_current hu
  obtain ⟨n, hp⟩ := enProfile_expand s.cfg hi
  obtain ⟨ph, hph, hat⟩ := hp.at_index hu
  have hphase : s.pulsePhase = ph := by
    obtain ⟨_, rfl⟩ := List.getElem?_eq_some_iff.mp hph
    simp [State.pulsePhase, hb, hi]
  rw [hphase]
  exact hat

end Sys2Proof.Machine
end

section
/-! PROOFS. Every step keeps the machine's invariant (`State.Inv`, spec/10_state.md R39). A busy block advances only after performing
the micro-operation at `upc` to its end, the state `State.UopDone`, so the steps that advance need one proof between them. -/

namespace Sys2Proof.Machine

/- The environment and the ports are no part of the invariant -/

/-- The invariant does not look at the host, the ports or the ghosts. -/
theorem State.Inv.with_environment {s : State} (h : s.Inv) (host : List CmdWord) (ins : List Inputs) (outs : Outs) :
    ({ s with host := host, inputs := ins, outs := outs } : State).Inv :=
  ⟨h.config, h.delay_busy, h.in_flight, h.delay_timed, h.initializing, h.en_level, h.configured, h.ready_driven,
    h.strict_ready⟩

/- The level of EN that is expected -/

/-- EN is expected idle while the block is idle. -/
theorem State.enExpected_of_idle {s : State} (hb : s.busy = false) : s.enExpected = enIdle s.cfg := by
  simp [State.enExpected, hb]

/-- With no delay running the micro-operations performed so far say where EN is. -/
theorem State.enExpected_of_not_dly {s : State} (hb : s.busy = true) (hd : s.dly = false) :
    s.enExpected = levelAfter s.cfg ((expand s.cfg s.cmdr).take s.upc.toNat) := by
  simp only [State.enExpected, hb, hd, if_true]
  split
  · simp_all
  · rfl

/-- While a DELAY runs EN is where it was. -/
theorem State.enExpected_of_delay {s : State} {t : Nat} (hb : s.busy = true) (hu : s.current = some (.delay t)) :
    s.enExpected = levelAfter s.cfg ((expand s.cfg s.cmdr).take s.upc.toNat) := by
  simp [State.enExpected, hb, hu]

/-- While a PULSE runs EN is active. -/
theorem State.enExpected_of_pulse {s : State} {t : Nat} (hb : s.busy = true) (hd : s.dly = true)
    (hu : s.current = some (.pulse t)) : s.enExpected = enAct s.cfg := by
  simp [State.enExpected, hb, hd, hu]

/-- The expansion up to and with the micro-operation at `upc`. -/
theorem take_succ_of_current {s : State} {u : Uop} (hu : s.current = some u) :
    (expand s.cfg s.cmdr).take (s.upc.toNat + 1) = (expand s.cfg s.cmdr).take s.upc.toNat ++ [u] := by
  rw [List.take_add_one]
  exact congrArg _ (congrArg Option.toList hu)

/- Where the `oe` bits come from -/

/-- A micro-operation performed writes an `oe` bit only if it is CFG_OUT. -/
theorem State.emit_oe (s : State) (u : Uop) :
    (s.emit u).oe = match u with | .cfgOut p => s.oe.set p true | _ => s.oe := by
  cases u <;> simp [State.emit, State.effect]

/-- No micro-operation clears an `oe` bit. -/
theorem State.emit_oe_get {s : State} {p : Pin} (u : Uop) (h : s.oe.get p = true) : (s.emit u).oe.get p = true := by
  rw [State.emit_oe]
  cases u with
  | cfgOut q => simp [Lines.get_set, h]
  | _ => exact h

/-- All `oe` bits on, bit by bit. -/
theorem Lines.allOn_iff_get (l : Lines) : l.allOn = true ↔ ∀ p, l.get p = true := by
  refine ⟨fun h p => ?_, fun h => ?_⟩
  · rw [(Lines.allOn_iff l).mp h]
    cases p <;> rfl
  · have hrs := h .rs
    have hen := h .en
    have h7 := h .d7
    have h6 := h .d6
    have h5 := h .d5
    have h4 := h .d4
    simp_all [Lines.get, Lines.allOn]

/-- INIT's prologue configures every pin. -/
theorem cfgOut_mem_initPrologue (p : Pin) : Uop.cfgOut p ∈ initPrologue.take 6 := by
  cases p <;> decide

/-- INIT in flight performs INIT's list. -/
theorem expand_of_isInit {c : Config} {cw : CmdWord} (hi : isInit cw = true) (hlen : 0 < (expand c cw).length) :
    expand c cw = initUops c := by
  obtain h | ⟨-, h⟩ | ⟨hn, -⟩ | ⟨hn, -⟩ := expand_cases c cw
  · simp [h] at hlen
  · exact h
  · simp [hi] at hn
  · simp [hi] at hn

/- The micro-operation at `upc` is done -/

/-- The invariant after the micro-operation at `upc` has been performed to its end and before `upc` counts it. -/
structure State.UopDone (s : State) : Prop where
  config : s.cfg.wf = true
  busy : s.busy = true
  no_delay : s.dly = false
  in_flight : s.upc.toNat < (expand s.cfg s.cmdr).length ∧ legal s.cmdr = true
  initializing : s.life = .initializing ↔ isInit s.cmdr = true
  en_level : s.x.en = levelAfter s.cfg ((expand s.cfg s.cmdr).take (s.upc.toNat + 1))
  configured : isInit s.cmdr = true → ∀ p, Uop.cfgOut p ∈ (expand s.cfg s.cmdr).take (s.upc.toNat + 1) → s.oe.get p = true
  ready_driven : s.life = .ready → s.oe.allOn = true
  strict_ready : s.cfg.strictInit = true → isInit s.cmdr = false → s.life = .ready

/-- Counting a micro-operation that is not the last keeps the invariant. -/
theorem State.UopDone.nextUpc_inv {s : State} (h : s.UopDone) (hlast : s.upc.toNat + 1 ≠ (expand s.cfg s.cmdr).length) :
    s.nextUpc.Inv := by
  have hupc : s.nextUpc.upc.toNat = s.upc.toNat + 1 := upc_succ s h.in_flight.1
  constructor
  case config => exact h.config
  case delay_busy => simp [h.no_delay]
  case in_flight =>
    intro _
    have := h.in_flight.1
    exact ⟨by rw [hupc, State.nextUpc_cfg, State.nextUpc_cmdr]; omega, h.in_flight.2⟩
  case delay_timed => simp [h.no_delay]
  case initializing => simpa [h.busy] using h.initializing
  case en_level =>
    rw [State.enExpected_of_not_dly (s := s.nextUpc) h.busy h.no_delay, hupc]
    exact h.en_level
  case configured =>
    intro _ hi
    rw [hupc]
    exact h.configured hi
  case ready_driven => exact h.ready_driven
  case strict_ready => exact fun hs _ => h.strict_ready hs

/-- Retiring after the last micro-operation keeps the invariant: EN is idle, and INIT has configured every pin. -/
theorem State.UopDone.retire_inv {s : State} (h : s.UopDone) (hlast : s.upc.toNat + 1 = (expand s.cfg s.cmdr).length) :
    s.nextUpc.retire.Inv := by
  constructor
  case config => simpa using h.config
  case delay_busy => simp [h.no_delay]
  case in_flight => simp
  case delay_timed => simp [h.no_delay]
  case initializing =>
    have := h.initializing
    cases hi : isInit s.cmdr <;> simp_all
  case en_level =>
    rw [State.enExpected_of_idle (by simp)]
    simp [h.en_level, hlast, levelAfter_expand]
  case configured => simp
  case ready_driven =>
    intro hr
    cases hi : isInit s.cmdr with
    | false => simpa using h.ready_driven (by simpa [hi] using hr)
    | true =>
      have hx := expand_of_isInit hi (Nat.zero_lt_of_lt h.in_flight.1)
      have hdone := h.configured hi
      rw [hlast, List.take_length, hx] at hdone
      simpa [Lines.allOn_iff_get] using fun p =>
        hdone p (List.mem_append_left _ (List.mem_of_mem_take (cfgOut_mem_initPrologue p)))
  case strict_ready => simp

/-- Advancing keeps the invariant. -/
theorem State.UopDone.advance_inv {s : State} (h : s.UopDone) : s.advance.Inv := by
  rw [advance_eq, show (s.upc + 1#7).toNat = s.upc.toNat + 1 from upc_succ s h.in_flight.1]
  split_ifs with hlast
  · exact h.retire_inv hlast
  · exact h.nextUpc_inv hlast

/-- A state that differs from one with the invariant by `u`, the micro-operation at `upc`, performed to its end. -/
theorem State.Inv.uopDone {s t : State} {u : Uop} (h : s.Inv) (hb : s.busy = true) (hu : s.current = some u)
    (hseq : SameSequencer s t) (hdly : t.dly = false)
    (hen : t.x.en = u.levelFrom s.cfg (levelAfter s.cfg ((expand s.cfg s.cmdr).take s.upc.toNat)))
    (hoe : t.oe = (s.emit u).oe) : t.UopDone := by
  have hkeep (p : Pin) (hp : s.oe.get p = true) : t.oe.get p = true := hoe ▸ State.emit_oe_get u hp
  constructor
  case config => exact hseq.cfg ▸ h.config
  case busy => exact hseq.busy.trans hb
  case no_delay => exact hdly
  case in_flight => simpa only [hseq.cfg, hseq.cmdr, hseq.upc] using h.in_flight hb
  case initializing => simpa [hseq.life, hseq.cmdr, hb] using h.initializing
  case en_level => rw [hseq.cfg, hseq.cmdr, hseq.upc, take_succ_of_current hu, levelAfter_concat, hen]
  case configured =>
    intro hi p hp
    rw [hseq.cmdr] at hi
    rw [hseq.cfg, hseq.cmdr, hseq.upc, take_succ_of_current hu, List.mem_append, List.mem_singleton] at hp
    obtain hp | rfl := hp
    · exact hkeep p (h.configured hb hi p hp)
    · simp [hoe, State.emit_oe, Lines.get_set]
  case ready_driven =>
    intro hr
    have hon := (Lines.allOn_iff_get _).mp (h.ready_driven (hseq.life ▸ hr))
    exact (Lines.allOn_iff_get _).mpr fun p => hkeep p (hon p)
  case strict_ready =>
    intro hs hi
    rw [hseq.cfg] at hs
    rw [hseq.cmdr] at hi
    exact hseq.life.trans (h.strict_ready hs hb hi)

/- The steps, one by one -/

/-- Where a micro-operation performed leaves EN. -/
theorem State.emit_en (s : State) (u : Uop) :
    (s.emit u).x.en = match u with | .en b => b | .pulse _ => enAct s.cfg | _ => s.x.en := by
  cases u <;> simp [State.emit, State.effect, Lines.setData]

/-- Where the end of a DELAY or PULSE leaves EN. -/
theorem State.endTimer_en (s : State) (u : Uop) :
    (s.endTimer u).x.en = match u with | .pulse _ => enIdle s.cfg | _ => s.x.en := by
  cases u <;> simp [State.endTimer]

/-- The timer-done step ends the micro-operation at `upc`. -/
theorem State.Inv.endTimer_uopDone {s : State} {u : Uop} (h : s.Inv) (hb : s.busy = true) (hu : s.current = some u)
    (ht : u.timed = true) : (s.clearOuts.endTimer u).UopDone := by
  have hen := h.en_level
  refine h.uopDone hb hu (.endTimer s u) (by simp) ?_ ?_
  · rw [State.endTimer_en]
    cases u with
    | delay t => exact hen.trans (State.enExpected_of_delay hb hu)
    | pulse t => rfl
    | _ => cases ht
  · rw [State.emit_oe]
    cases u with
    | cfgOut p => cases ht
    | _ => simp

/-- The perform step of a micro-operation that starts no timer ends it. -/
theorem State.Inv.emit_uopDone {s : State} {u : Uop} (h : s.Inv) (hb : s.busy = true) (hd : s.dly = false)
    (hu : s.current = some u) (ht : u.timed = false) : (s.clearOuts.emit u).UopDone := by
  have hen := h.en_level.trans (State.enExpected_of_not_dly hb hd)
  refine h.uopDone hb hu (.emit s u) (by simp [emit_dly, ht, hd]) ?_ (by simp [State.emit_oe])
  rw [State.emit_en, ← hen]
  cases u with
  | pulse t => cases ht
  | _ => rfl

/-- The perform step of a DELAY or PULSE keeps the invariant. -/
theorem State.Inv.after_emit_timed {s : State} {u : Uop} (h : s.Inv) (hb : s.busy = true) (hd : s.dly = false)
    (hu : s.current = some u) (ht : u.timed = true) : (s.clearOuts.emit u).Inv := by
  have hseq := SameSequencer.emit s u
  have hbt : (s.clearOuts.emit u).busy = true := hseq.busy.trans hb
  have hut : (s.clearOuts.emit u).current = some u := by simpa [State.current] using hu
  have hoe : (s.clearOuts.emit u).oe = s.oe := by
    rw [State.emit_oe]
    cases u with
    | cfgOut p => cases ht
    | _ => rfl
  constructor
  case config => exact hseq.cfg ▸ h.config
  case delay_busy => exact fun _ => hbt
  case in_flight => simpa only [hseq.cfg, hseq.cmdr, hseq.upc, hseq.busy] using h.in_flight
  case delay_timed => exact fun _ => ⟨u, hut, ht⟩
  case initializing => simpa only [hseq.life, hseq.busy, hseq.cmdr] using h.initializing
  case en_level =>
    rw [State.emit_en]
    cases u with
    | delay t =>
      rw [State.enExpected_of_delay hbt hut, hseq.cfg, hseq.cmdr, hseq.upc, ← State.enExpected_of_not_dly hb hd]
      exact h.en_level
    | pulse t =>
      rw [State.enExpected_of_pulse hbt (by simp [emit_dly, ht]) hut, hseq.cfg]
      rfl
    | _ => cases ht
  case configured => simpa only [hseq.busy, hseq.cfg, hseq.cmdr, hseq.upc, hoe] using h.configured
  case ready_driven => simpa only [hseq.life, hoe] using h.ready_driven
  case strict_ready => simpa only [hseq.cfg, hseq.life, hseq.busy, hseq.cmdr] using h.strict_ready

/-- A state whose registers are those of R32 has the invariant. -/
theorem State.Inv.of_reset {s : State} (hw : s.cfg.wf = true) (hen : s.x.en = enIdle s.cfg) (hl : s.life = .uninitialized)
    (hb : s.busy = false) (hd : s.dly = false) : s.Inv := by
  constructor
  case config => exact hw
  case en_level => rw [hen, State.enExpected_of_idle hb]
  all_goals simp [hl, hb, hd]

/-- Settles O8. -/
theorem invariantAtReset : Obligations.InvariantAtReset := fun _ _ _ hw => .of_reset hw rfl rfl rfl rfl

/-- A word that decodes is legal. -/
theorem legal_of_decode {cw : CmdWord} {i : Instr} (h : decode cw = .ok i) : legal cw = true := by
  have hop : (opField cw).toNat = cw.toNat / 256 := by
    simp only [opField, BitVec.extractLsb'_toNat, Nat.shiftRight_eq_div_pow]
    omega
  have harg : (argField cw).toNat = cw.toNat % 256 := by simp [argField]
  have hline : ((argField cw).extractLsb' 1 7).toNat = cw.toNat % 256 / 2 := by
    simp only [BitVec.extractLsb'_toNat, Nat.shiftRight_eq_div_pow, harg]
    omega
  unfold decode at h
  simp only [← BitVec.toNat_inj, hop, harg, hline, BitVec.reduceToNat] at h
  simp only [legal, Bool.or_eq_true, Bool.and_eq_true, beq_iff_eq, decide_eq_true_eq, ← BitVec.toNat_inj,
    BitVec.reduceToNat]
  split_ifs at h <;> omega

/-- A word that decodes has something to perform. -/
theorem expand_length_pos (c : Config) {cw : CmdWord} {i : Instr} (h : decode cw = .ok i) :
    0 < (expand c cw).length := by
  have hx : expand c cw = uopsOf c i := by simp only [expand, h]
  rw [hx]
  obtain rfl | rfl | ⟨line, rfl⟩ | ⟨v, rfl⟩ | ⟨v, rfl⟩ := decode_cases h <;>
    simp [uopsOf, initUops, initPrologue, clearUops, setcurUops, sendiUops, senddUops, sendByteUops]

/-- Accepting a command that decodes, with `life` at `l`, keeps the invariant. -/
theorem State.Inv.after_take {s : State} {cw : CmdWord} {i : Instr} {l : Life} (h : s.Inv) (hb : s.busy = false)
    (hi : decode cw = .ok i) (hl : l = .initializing ↔ isInit cw = true) (hr : l = .ready → s.life = .ready)
    (hs : s.cfg.strictInit = true → isInit cw = false → l = .ready) : ({ s with life := l }.take cw).Inv := by
  have hd : s.dly = false := by
    have := h.delay_busy
    simpa [hb] using this
  constructor
  case config => exact h.config
  case delay_busy => simp
  case in_flight => exact fun _ => ⟨expand_length_pos s.cfg hi, legal_of_decode hi⟩
  case delay_timed => simp [hd]
  case initializing => simpa using hl
  case en_level =>
    have hx := State.enExpected_of_not_dly (s := { s with life := l }.take cw) rfl hd
    exact (h.en_level.trans (State.enExpected_of_idle hb)).trans hx.symm
  case configured => simp
  case ready_driven => exact fun h' => h.ready_driven (hr h')
  case strict_ready => exact fun h' _ => hs h'

/-- Every instruction a word decodes to keeps the invariant of an idle block. -/
theorem State.Inv.after_exec {s t : State} {cw : CmdWord} {i : Instr} (h : s.Inv) (hb : s.busy = false)
    (hi : decode cw = .ok i) (hx : exec i s = .next t) : t.Inv := by
  obtain ⟨-, ⟨-, rfl⟩ | ⟨-, -, -, rfl⟩ | ⟨-, hs, w, hw, hni, rfl⟩⟩ := exec_idle_cases i cw s t hb hi hx
  · exact h.after_take hb (i := .init) (by decide) (by decide) (by simp) (fun _ hn => absurd hn (by decide))
  · exact h.with_environment _ _ _
  · refine h.after_take (l := s.life) hb hw ?_ id fun h' _ => hs h'
    have := h.initializing
    simpa [hb, hni] using this

/-- Every step keeps the invariant, at any port levels. -/
theorem State.Inv.after_cycle {inp : Inputs} {s t : State} (h : s.Inv) (hc : cycle inp s = .next t) : t.Inv := by
  obtain ⟨-, hreset | hwait | htimer | htimed | huntimed | hidle | hword⟩ := cycle_cases inp s t hc
  · obtain ⟨-, rfl⟩ := hreset
    exact .of_reset h.config rfl rfl rfl rfl
  · obtain ⟨-, -, -, -, rfl⟩ := hwait
    exact h.with_environment _ _ _
  · obtain ⟨-, hb, -, u, hu, ht, rfl⟩ := htimer
    exact (h.endTimer_uopDone hb hu ht).advance_inv
  · obtain ⟨-, hb, hd, u, hu, ht, rfl⟩ := htimed
    exact h.after_emit_timed hb hd hu ht
  · obtain ⟨-, hb, hd, u, hu, ht, rfl⟩ := huntimed
    exact (h.emit_uopDone hb hd hu ht).advance_inv
  · obtain ⟨-, -, -, rfl⟩ := hidle
    exact h.with_environment _ _ _
  · obtain ⟨-, hb, -, cw, rest, -, ⟨e, -, rfl⟩ | ⟨i, hi, hx⟩⟩ := hword
    · exact h.with_environment _ _ _
    · exact (h.with_environment rest s.inputs .quiet).after_exec hb hi hx

/-- Settles O9: `step` is a `cycle`, each case of which keeps the invariant. -/
theorem everyStepKeepsTheInvariant : Obligations.EveryStepKeepsTheInvariant := by
  intro s t h hstep
  rw [step_cycle] at hstep
  exact (h.with_environment s.host s.inputs.tail s.outs).after_cycle hstep

end Sys2Proof.Machine
end

section
/-! PROOFS. What the invariant gives: the clauses of spec/10_state.md R39 in every reachable state, the pads (R23), and the values right
after reset (R32). -/

namespace Sys2Proof.Machine

/-- Settles O6: the values are those of the definition, and an idle block without a word waits. -/
theorem resetStateValues : Obligations.ResetStateValues := by
  intro c
  have off (p : Pin) : (State.resetOf c).oe.get p = false := by cases p <;> rfl
  have data : (State.resetOf c).x.data = 0 := by simp [State.resetOf, Lines.off, Lines.data]
  exact ⟨rfl, rfl, rfl, data, off, rfl, rfl, rfl, rfl, rfl, rfl, fun p => by simp [State.pad, off p],
    fun hw _ => cycle_idle_hold hw rfl rfl (.inl rfl)⟩

/- R39 (e), (f): where EN is active -/

/-- EN is active only in the width or the fall of a pulse, or while a PULSE runs. -/
theorem State.Inv.active_phase {s : State} (h : s.Inv) (he : s.x.en = enAct s.cfg) :
    s.pulsePhase = .p4Width ∨ s.pulsePhase = .p5Fall ∨ (s.pulsePhase = .q2Pulse ∧ s.dly = true) := by
  have hexp : s.enExpected = enAct s.cfg := h.en_level ▸ he
  have hb : s.busy = true := by
    by_contra hb
    rw [State.enExpected_of_idle (by simpa using hb)] at hexp
    exact enIdle_ne_enAct _ hexp
  obtain ⟨u, hu⟩ : ∃ u, s.current = some u := ⟨_, List.getElem?_eq_getElem (h.in_flight hb).1⟩
  obtain ⟨hact, hpulse, -⟩ := State.enAt_current hb hu
  have hlevel (hl : s.enExpected = levelAfter s.cfg ((expand s.cfg s.cmdr).take s.upc.toNat)) :
      s.pulsePhase = .p4Width ∨ s.pulsePhase = .p5Fall ∨ (s.pulsePhase = .q2Pulse ∧ s.dly = true) :=
    (hact (hl ▸ hexp)).imp_right .inl
  cases hd : s.dly with
  | false => simpa [hd] using hlevel (State.enExpected_of_not_dly hb hd)
  | true =>
    obtain ⟨v, hv, ht⟩ := h.delay_timed hd
    cases v with
    | delay t => simpa [hd] using hlevel (State.enExpected_of_delay hb hv)
    | pulse t => exact .inr (.inr ⟨hpulse t (Option.some.inj (hu.symm.trans hv)), rfl⟩)
    | _ => cases ht

/-- RS and the data lines are written only while EN is idle. -/
theorem State.Inv.idle_of_writesLines {s : State} {u : Uop} (h : s.Inv) (hb : s.busy = true) (hd : s.dly = false)
    (hu : s.current = some u) (hw : u.writesLines = true) : s.x.en = enIdle s.cfg := by
  obtain ⟨-, -, hidle⟩ := State.enAt_current hb hu
  exact (h.en_level.trans (State.enExpected_of_not_dly hb hd)).trans (hidle hw)

/-- A micro-operation that does not write RS or the data lines leaves them alone. -/
theorem State.emit_lines {u : Uop} (s : State) (hw : u.writesLines = false) :
    (s.emit u).x.rs = s.x.rs ∧ (s.emit u).x.data = s.x.data := by
  cases u with
  | rs b => cases hw
  | data n => cases hw
  | _ => simp [State.emit, State.effect, Lines.data]

/-- The end of a DELAY or PULSE leaves RS and the data lines alone. -/
theorem State.endTimer_lines (s : State) (u : Uop) :
    (s.endTimer u).x.rs = s.x.rs ∧ (s.endTimer u).x.data = s.x.data := by
  cases u <;> simp [State.endTimer, Lines.data]

/-- Settles O29: EN is idle while the block is idle, and where it is active the micro-operation at `upc` does not write the lines
(R39 (f)). -/
theorem linesHeldWhileEnIsActive : Obligations.LinesHeldWhileEnIsActive := by
  intro inp s t h he hr hc
  have hne := enIdle_ne_enAct s.cfg
  have hbusy : s.busy = true := by
    by_contra hb
    exact hne ((h.en_level.trans (State.enExpected_of_idle (by simpa using hb))).symm.trans he)
  have hold {u : Uop} (hd : s.dly = false) (hu : s.current = some u) : u.writesLines = false := by
    by_contra hw
    exact hne ((h.idle_of_writesLines hbusy hd hu (by simpa using hw)).symm.trans he)
  obtain ⟨-, hreset | hwait | htimer | htimed | huntimed | hidle | hword⟩ := cycle_cases inp s t hc
  · simp [hr] at hreset
  · obtain ⟨-, -, -, -, rfl⟩ := hwait
    exact ⟨rfl, rfl⟩
  · obtain ⟨-, -, -, u, -, -, rfl⟩ := htimer
    simpa using s.clearOuts.endTimer_lines u
  · obtain ⟨-, -, hd, u, hu, -, rfl⟩ := htimed
    exact s.clearOuts.emit_lines (hold hd hu)
  · obtain ⟨-, -, hd, u, hu, -, rfl⟩ := huntimed
    simpa using s.clearOuts.emit_lines (hold hd hu)
  · simp [hbusy] at hidle
  · simp [hbusy] at hword

/- R39 (g), (h), (i): the `oe` bits -/

/-- Only INIT configures pins. -/
theorem isInit_of_cfgOut_mem {c : Config} {cw : CmdWord} {p : Pin} (h : Uop.cfgOut p ∈ expand c cw) : isInit cw = true := by
  have byte (v : Byte) (m : SendMode) : Uop.cfgOut p ∉ sendByteUops c v m := by
    unfold sendByteUops sendNibbleUops
    cases c.enStrategy <;> simp
  obtain hx | ⟨hi, -⟩ | ⟨-, hx⟩ | ⟨-, v, m, hx⟩ := expand_cases c cw
  · simp [hx] at h
  · exact hi
  · simp [hx, clearUops, byte] at h
  · exact absurd (hx ▸ h) (byte v m)

/-- What one step does to the `oe` bits: a reset clears them, CFG_OUT sets one, everything else leaves them alone. -/
theorem cycle_oe {inp : Inputs} {s t : State} (hc : cycle inp s = .next t) :
    (inp.rst = true ∧ t.oe = Lines.off) ∨
    (inp.rst = false ∧ s.busy = true ∧ ∃ p, s.current = some (.cfgOut p) ∧ t.oe = s.oe.set p true) ∨
    t.oe = s.oe := by
  obtain ⟨-, hreset | hwait | htimer | htimed | huntimed | hidle | hword⟩ := cycle_cases inp s t hc
  · obtain ⟨hr, rfl⟩ := hreset
    exact .inl ⟨hr, rfl⟩
  · obtain ⟨-, -, -, -, rfl⟩ := hwait
    exact .inr (.inr rfl)
  · obtain ⟨-, -, -, u, -, -, rfl⟩ := htimer
    exact .inr (.inr (by simp))
  · obtain ⟨-, -, -, u, -, ht, rfl⟩ := htimed
    rw [State.emit_oe]
    cases u with
    | cfgOut p => cases ht
    | _ => exact .inr (.inr rfl)
  · obtain ⟨hr, hb, -, u, hu, -, rfl⟩ := huntimed
    rw [State.advance_oe, State.emit_oe]
    cases u with
    | cfgOut p => exact .inr (.inl ⟨hr, hb, p, hu, rfl⟩)
    | _ => exact .inr (.inr rfl)
  · obtain ⟨-, -, -, rfl⟩ := hidle
    exact .inr (.inr rfl)
  · obtain ⟨-, hb, -, cw, rest, -, ⟨e, -, rfl⟩ | ⟨i, hi, hx⟩⟩ := hword
    · exact .inr (.inr rfl)
    · obtain ⟨-, ⟨-, rfl⟩ | ⟨-, -, -, rfl⟩ | ⟨-, -, w, -, -, rfl⟩⟩ :=
        exec_idle_cases i cw { s.clearOuts with host := rest } t hb hi hx <;> exact .inr (.inr rfl)

/-- R39 (g): it holds of every step of every state. -/
theorem cycle_oeOnlyByInit {inp : Inputs} {s t : State} (hc : cycle inp s = .next t) : oeOnlyByInit inp s t := by
  intro p
  obtain ⟨hr, ht⟩ | ⟨hr, hb, q, hu, ht⟩ | ht := cycle_oe hc
  · refine ⟨fun _ hon => ?_, fun _ _ => hr⟩
    rw [ht] at hon
    cases p <;> cases hon
  · refine ⟨fun _ _ => ⟨hr, hb, isInit_of_cfgOut_mem (List.mem_of_getElem? hu)⟩, fun hon hoff => ?_⟩
    simp [ht, Lines.get_set, hon] at hoff
  · exact ⟨fun hoff hon => absurd hon (by simp [ht, hoff]), fun hon hoff => absurd hon (by simp [← ht, hoff])⟩

/-- INIT writes no latch before it has configured the six pins. -/
theorem six_le_of_writesLatch {c : Config} {k : Nat} {u : Uop} (hu : (initUops c)[k]? = some u)
    (hw : u.writesLatch = true) : 6 ≤ k := by
  by_contra hk
  rcases k with _ | _ | _ | _ | _ | _ | k
  case succ => omega
  all_goals
    cases hu
    cases hw

/-- Under `STRICT_INIT` a latch is written only while every pin is driven. -/
theorem State.Inv.driven_of_writesLatch {s : State} {u : Uop} (h : s.Inv) (hs : s.cfg.strictInit = true) (hb : s.busy = true)
    (hu : s.current = some u) (hw : u.writesLatch = true) : s.oe = Lines.on := by
  rw [← Lines.allOn_iff]
  cases hi : isInit s.cmdr with
  | false => exact h.ready_driven (h.strict_ready hs hb hi)
  | true =>
    have hx := expand_of_isInit hi (Nat.zero_lt_of_lt (h.in_flight hb).1)
    have hdone := h.configured hb hi
    rw [State.current, hx] at hu
    rw [hx] at hdone
    have hconfigured : initPrologue.take 6 ⊆ (initUops s.cfg).take s.upc.toNat :=
      List.take_subset_take_left (initUops s.cfg) (six_le_of_writesLatch hu hw)
    exact (Lines.allOn_iff_get _).mpr fun p => hdone p (hconfigured (cfgOut_mem_initPrologue p))

/- R39 -/

/-- The invariant gives the clauses of R39 that speak of one state. -/
theorem State.Inv.r39 {s : State} (h : s.Inv) : s.R39 where
  a := h.delay_busy
  b := h.in_flight
  c := h.initializing
  d := by rw [State.lifePort]; cases s.life <;> decide
  e_idle hb := h.en_level.trans (State.enExpected_of_idle hb)
  e_pulse := h.active_phase
  f _ hb hd hu hw := h.idle_of_writesLines hb hd hu hw
  h hr := (Lines.allOn_iff _).mp (h.ready_driven hr)
  i _ hs hb _ hu hw := h.driven_of_writesLatch hs hb hu hw

/-- Settles O11. -/
theorem invariantGivesR39 : Obligations.InvariantGivesR39 := fun _ h => ⟨h.r39, fun _ _ => cycle_oeOnlyByInit⟩

/-- Every reachable state has the invariant. -/
theorem Reachable.inv {s : State} (h : Reachable s) : s.Inv := by
  induction h with
  | reset c words ins hw => exact invariantAtReset c words ins hw
  | step s t _ hstep ih => exact everyStepKeepsTheInvariant s t ih hstep

/-- Settles O10: a reachable state has the invariant, which gives R39. -/
theorem reachableStatesSatisfyR39 : Obligations.ReachableStatesSatisfyR39 := by
  intro s hs
  refine ⟨hs.inv.r39, fun t hstep => ?_⟩
  rw [step_cycle] at hstep
  exact cycle_oeOnlyByInit (s := { s with inputs := s.inputs.tail }) hstep

/- The pads (R23) -/

/-- Settles O31: after INIT every `oe` bit is 1 (R39 (h)). -/
theorem padsShowTheLatchesWhenReady : Obligations.PadsShowTheLatchesWhenReady := by
  intro s p draw
  refine ⟨fun h hr => ?_, fun hon => ?_, fun hoff => ?_⟩
  · have hon := (Lines.allOn_iff_get _).mp (h.ready_driven hr) p
    simp [State.pad, hon]
  · simp [State.seenLevel, State.pad, hon]
  · simp [State.seenLevel, State.pad, hoff]

end Sys2Proof.Machine
end

section
/-! PROOFS. The memory of a run (spec/20_memory.md): what each micro-operation writes (R51, R58), the trace (R59) and the latched
stream (R61). The latched stream grows where EN is written, so a step is read off the level EN has before and after it
(`State.edgeItems`); the trace grows where a micro-operation is performed, so it follows `upc` (`State.TracedTo`). -/

namespace Sys2Proof.Machine

/- The micro-operations (R51, R58) -/

/-- From EN idle, writing EN is no latching edge. -/
theorem State.writeEn_of_idle {s : State} (he : s.x.en = enIdle s.cfg) (b : Bool) :
    s.writeEn b = { s with x := { s.x with en := b } } := by
  simp [State.writeEn, he, enIdle_ne_enAct]

/-- Settles O26: each effect is its definition, and from EN idle no write of EN latches. -/
theorem microOperationEffects : Obligations.MicroOperationEffects := by
  intro s p b n t
  refine ⟨rfl, fun q => Lines.get_set s.oe p q, rfl, rfl, rfl, fun he => ⟨?_, ?_⟩⟩
  · rw [State.emit, State.effect, State.writeEn_of_idle he]
  · rw [State.emit, State.effect, State.writeEn_of_idle he]
    rfl

/-- Settles O27: `D` reads back what `setData` wrote, and the rest is its definition. -/
theorem nibbleOnTheDataLines : Obligations.NibbleOnTheDataLines := fun l n =>
  ⟨rfl, rfl, rfl, rfl, l.data_setData n, rfl, rfl⟩

/- The latched stream (R61) -/

/-- What the latched stream gains when EN goes to the level `en`: an item at the latching edge, nothing elsewhere. -/
def State.edgeItems (s : State) (en : Bool) : List Latched :=
  if s.x.en = enAct s.cfg ∧ en = enIdle s.cfg then [s.latchItem] else []

/-- Where EN keeps its level there is no edge. -/
@[simp] theorem State.edgeItems_same (s : State) : s.edgeItems s.x.en = [] :=
  if_neg fun ⟨hact, hidle⟩ => enIdle_ne_enAct s.cfg (hidle.symm.trans hact)

@[simp] theorem State.edgeItems_clearOuts (s : State) (en : Bool) : s.clearOuts.edgeItems en = s.edgeItems en := rfl

/-- Writing EN latches at the edge. -/
theorem State.writeEn_latched (s : State) (b : Bool) : (s.writeEn b).latched = s.latched ++ s.edgeItems b := by
  unfold State.writeEn State.edgeItems
  split <;> simp

/-- A micro-operation performed latches where it takes EN idle. -/
theorem State.emit_latched (s : State) (u : Uop) :
    (s.emit u).latched = s.latched ++ s.edgeItems (s.emit u).x.en := by
  rw [State.emit_en]
  cases u with
  | en b => exact s.writeEn_latched b
  | pulse t => exact s.writeEn_latched (enAct s.cfg)
  | _ => simp [State.emit, State.effect]

/-- So does the end of a DELAY or PULSE. -/
theorem State.endTimer_latched (s : State) (u : Uop) :
    (s.endTimer u).latched = s.latched ++ s.edgeItems (s.endTimer u).x.en := by
  rw [State.endTimer_en]
  cases u with
  | pulse t => exact s.writeEn_latched (enIdle s.cfg)
  | _ => simp [State.endTimer]

/-- A step that is no reset latches where it takes EN idle. -/
theorem cycle_latched {inp : Inputs} {s t : State} (hr : inp.rst = false) (h : cycle inp s = .next t) :
    t.latched = s.latched ++ s.edgeItems t.x.en := by
  obtain ⟨hw, hreset | hwait | htimer | htimed | huntimed | hidle | hword⟩ := cycle_cases inp s t h
  · simp [hr] at hreset
  · obtain ⟨-, -, -, -, rfl⟩ := hwait
    simp
  · obtain ⟨-, -, -, u, -, -, rfl⟩ := htimer
    simpa using s.clearOuts.endTimer_latched u
  · obtain ⟨-, -, -, u, -, -, rfl⟩ := htimed
    exact s.clearOuts.emit_latched u
  · obtain ⟨-, -, -, u, -, -, rfl⟩ := huntimed
    simpa using s.clearOuts.emit_latched u
  · obtain ⟨-, hb, -⟩ := hidle
    obtain ⟨hx, -, -, hl, -⟩ := (idleBlockHoldsEverything inp s hw hb hr).2 t h
    simp [hx, hl]
  · obtain ⟨-, hb, -⟩ := hword
    obtain ⟨hx, -, -, hl, -⟩ := (idleBlockHoldsEverything inp s hw hb hr).2 t h
    simp [hx, hl]

/-- Settles O28: a reset latches `undriven` where EN was active, every other step what `edgeItems` says. -/
theorem latchedStreamGrowsAtTheLatchingEdge : Obligations.LatchedStreamGrowsAtTheLatchingEdge := by
  intro inp s t h
  cases hr : inp.rst with
  | false =>
    rw [cycle_latched hr h, State.edgeItems, State.latchItem_eq]
    simp
  | true =>
    obtain ⟨-, ⟨-, rfl⟩ | hrest⟩ := cycle_cases inp s t h
    · by_cases he : s.x.en = enAct s.cfg <;> simp [State.resetStep, he]
    · simp [hr] at hrest

/-- The two nibbles of a byte, the high one first. -/
theorem hiNibble_append_loNibble (v : Byte) : hiNibble v ++ loNibble v = v := by
  revert v
  decide

/-- The pair a byte latches with every pin driven is read back as that byte. -/
theorem latchedBytes_byteItems_append (b : Bool) (v : Byte) (items : List Latched) :
    latchedBytes (byteItems Lines.on b v ++ items) = (latchedBytes items).map ((b, v) :: ·) := by
  simp [byteItems, nibbleItem, (Lines.allOn_iff _).mpr, latchedBytes, hiNibble_append_loNibble]

/-- Settles O57, by induction on the bytes sent. -/
theorem latchedBytesAreTheBytesSent : Obligations.LatchedBytesAreTheBytesSent := by
  intro bytes
  induction bytes with
  | nil => rfl
  | cons b bytes ih => rw [List.flatMap_cons, latchedBytes_byteItems_append, ih, Option.map_some]

/- The trace (R59) -/

/-- The trace ends with the first `k` micro-operations of the command in flight. -/
def State.TracedTo (s : State) (k : Nat) : Prop :=
  ((expand s.cfg s.cmdr).take k).map TraceItem.op <:+ s.trace

/-- In flight, the micro-operations performed are those before `upc`, and the timed one at `upc` while it runs. -/
theorem State.traceInFlight_iff {s : State} (hb : s.busy = true) :
    s.TraceInFlight ↔ s.TracedTo (s.upc.toNat + if s.dly then 1 else 0) := by
  simp [State.TraceInFlight, State.TracedTo, hb]

/-- An idle block has nothing in flight. -/
theorem State.traceInFlight_of_idle {s : State} (hb : s.busy = false) : s.TraceInFlight := by
  simp [State.TraceInFlight, hb]

/-- Performing the micro-operation at `upc` appends it to the trace. -/
theorem State.TracedTo.emit {s : State} {u : Uop} (h : s.TracedTo s.upc.toNat) (hu : s.current = some u) :
    (s.emit u).TracedTo ((s.emit u).upc.toNat + 1) := by
  obtain ⟨before, htrace⟩ := h
  refine ⟨before, ?_⟩
  simp [take_succ_of_current hu, ← htrace]

/-- The step from `s` to `t` keeps the trace of the command in flight, and completes it if the command retires. -/
def TraceFollows (s t : State) : Prop :=
  t.TraceInFlight ∧ (t.busy = false → (expand s.cfg s.cmdr).map TraceItem.op <:+ t.trace)

/-- Advancing past a micro-operation that is in the trace. -/
theorem State.TracedTo.advance {s t : State} {u : Uop} (h : t.TracedTo (t.upc.toNat + 1)) (hseq : SameSequencer s t)
    (hb : s.busy = true) (hd : t.dly = false) (hu : s.current = some u) : TraceFollows s t.advance := by
  have hlt : t.upc.toNat < (expand t.cfg t.cmdr).length := by
    rw [hseq.cfg, hseq.cmdr, hseq.upc]
    exact (List.getElem?_eq_some_iff.mp hu).1
  have hupc : (t.upc + 1).toNat = t.upc.toNat + 1 := upc_succ t hlt
  refine ⟨fun hbusy => (State.traceInFlight_iff hbusy).mpr ?_ hbusy, fun hretired => ?_⟩
  · rw [State.advance_upc, hupc, State.advance_dly, hd]
    simpa [State.TracedTo] using h
  · rw [State.advance_busy (hseq.busy.trans hb), hupc] at hretired
    rw [State.TracedTo, hretired, List.take_length, hseq.cfg, hseq.cmdr] at h
    simpa using h

/-- An idle block stays idle or starts a command at its first micro-operation. -/
theorem cycle_idle_sequencer {inp : Inputs} {s t : State} (hb : s.busy = false) (hr : inp.rst = false)
    (h : cycle inp s = .next t) : t.dly = s.dly ∧ (t.busy = false ∨ t.upc = 0) := by
  obtain ⟨-, hreset | hwait | htimer | htimed | huntimed | hidle | hword⟩ := cycle_cases inp s t h
  · simp [hr] at hreset
  · simp [hb] at hwait
  · simp [hb] at htimer
  · simp [hb] at htimed
  · simp [hb] at huntimed
  · obtain ⟨-, -, -, rfl⟩ := hidle
    exact ⟨rfl, .inl hb⟩
  · obtain ⟨-, -, -, cw, rest, -, ⟨e, -, rfl⟩ | ⟨i, hi, hx⟩⟩ := hword
    · exact ⟨rfl, .inl hb⟩
    · obtain ⟨-, ⟨-, rfl⟩ | ⟨-, -, -, rfl⟩ | ⟨-, -, w, -, -, rfl⟩⟩ :=
        exec_idle_cases i cw { s.clearOuts with host := rest } t hb hi hx
      · exact ⟨rfl, .inr rfl⟩
      · exact ⟨rfl, .inl hb⟩
      · exact ⟨rfl, .inr rfl⟩

/-- A busy block that is not reset: waiting traces nothing, performing traces the micro-operation at `upc`, and the end of a timed
one counts what was traced when it started. -/
theorem cycle_busy_traceFollows {inp : Inputs} {s t : State} (hb : s.busy = true) (hr : inp.rst = false)
    (hs : s.TraceInFlight) (h : cycle inp s = .next t) : TraceFollows s t := by
  rw [State.traceInFlight_iff hb] at hs
  obtain ⟨-, hreset | hwait | htimer | htimed | huntimed | hidle | hword⟩ := cycle_cases inp s t h
  · simp [hr] at hreset
  · obtain ⟨-, -, -, -, rfl⟩ := hwait
    exact ⟨(State.traceInFlight_iff (s := s.clearOuts) hb).mpr hs, by simp [hb]⟩
  · obtain ⟨-, -, hd, u, hu, -, rfl⟩ := htimer
    refine State.TracedTo.advance ?_ (.endTimer s u) hb (by simp) hu
    simpa [State.TracedTo, hd] using hs
  · obtain ⟨-, -, hd, u, hu, ht, rfl⟩ := htimed
    simp only [hd, Bool.false_eq_true, if_false, Nat.add_zero] at hs
    have htraced : (s.clearOuts.emit u).TracedTo _ := State.TracedTo.emit (s := s.clearOuts) hs hu
    refine ⟨(State.traceInFlight_iff (by simpa using hb)).mpr ?_, by simp [hb]⟩
    simpa [emit_dly, ht] using htraced
  · obtain ⟨-, -, hd, u, hu, ht, rfl⟩ := huntimed
    simp only [hd, Bool.false_eq_true, if_false, Nat.add_zero] at hs
    exact (State.TracedTo.emit (s := s.clearOuts) hs hu).advance (.emit s u) hb (by simp [emit_dly, ht, hd]) hu
  · simp [hb] at hidle
  · simp [hb] at hword

/-- Settles O13: a reset leaves nothing in flight, an idle block starts with nothing performed, a busy one is
`cycle_busy_traceFollows`. -/
theorem traceOfACommandIsItsExpansion : Obligations.TraceOfACommandIsItsExpansion := by
  intro inp s t hdb hs h
  cases hr : inp.rst with
  | true =>
    obtain ⟨-, ⟨-, rfl⟩ | hrest⟩ := cycle_cases inp s t h
    · exact ⟨State.traceInFlight_of_idle rfl, fun _ => nofun⟩
    · simp [hr] at hrest
  | false =>
    cases hb : s.busy with
    | true =>
      obtain ⟨hflight, hretired⟩ := cycle_busy_traceFollows hb hr hs h
      exact ⟨hflight, fun _ _ => hretired⟩
    | false =>
      have hd : s.dly = false := by simpa [hb] using hdb
      refine ⟨?_, nofun⟩
      obtain ⟨htd, ht | ht⟩ := cycle_idle_sequencer hb hr h
      · exact State.traceInFlight_of_idle ht
      · simp [State.TraceInFlight, htd, hd, ht]

end Sys2Proof.Machine
end

section
/-! PROOFS. The encoding (spec/30_encoding.md): the words of R81's map and their decoding (R80 to R83, R89, R90), the packed entries of
the initialization table (R85), and the internal operations as steps of the block (R91). Each word is compared as the number
`256 * op + arg`, so every fact about the map is arithmetic on its two fields. -/

namespace Sys2Proof

/- The fields of a word and the words as numbers (R80, R89) -/

/-- `op` as a number. -/
theorem opField_toNat (cw : CmdWord) : (opField cw).toNat = cw.toNat / 256 := by
  simp only [opField, BitVec.extractLsb'_toNat, Nat.shiftRight_eq_div_pow]
  omega

/-- `arg` as a number. -/
theorem argField_toNat (cw : CmdWord) : (argField cw).toNat = cw.toNat % 256 := by
  simp [argField]

/-- A word is determined by its two fields. -/
theorem word_toNat_eq (cw : CmdWord) : cw.toNat = 256 * (opField cw).toNat + (argField cw).toNat := by
  rw [opField_toNat, argField_toNat]
  omega

/-- The arg of SETCUR, its reserved bits 7 to 1 and its line put together. -/
theorem arg_toNat_eq_line (arg : Byte) :
    arg.toNat = 2 * (arg.extractLsb' 1 7).toNat + (arg.extractLsb' 0 1).toNat := by
  simp only [BitVec.extractLsb'_toNat, Nat.shiftRight_eq_div_pow]
  omega

/-- SETCUR's word as a number. -/
theorem setcurWord_toNat (line : BitVec 1) : (setcurWord line).toNat = 0x200 + line.toNat := by
  revert line
  decide

/-- The words of the byte sends as numbers. -/
theorem sendWord_toNat (m : SendMode) (v : Byte) :
    (sendWord m v).toNat = (match m with | .instruction => 0x400 | .data => 0x500) + v.toNat := by
  cases m <;> (revert v; decide)

/- The words of R81's map and what they decode to -/

/-- INIT's word decodes to it. -/
theorem decode_initWord : decode 0x000 = .ok .init := by decide

/-- CLEAR's word decodes to it. -/
theorem decode_clearWord : decode 0x100 = .ok .clear := by decide

/-- A word that decodes is the word of the command it decodes to. -/
theorem word_cases_of_decode {cw : CmdWord} {i : Instr} (h : decode cw = .ok i) :
    (i = .init ∧ cw = 0x000) ∨ (i = .clear ∧ cw = 0x100) ∨ (∃ line, i = .setcur line ∧ cw = setcurWord line) ∨
    (∃ v, i = .sendi v ∧ cw = sendWord .instruction v) ∨ ∃ v, i = .sendd v ∧ cw = sendWord .data v := by
  have hword := word_toNat_eq cw
  have hline := arg_toNat_eq_line (argField cw)
  unfold decode at h
  dsimp only at h
  split_ifs at h with hop harg hop harg hop harg hop hop <;> cases h
  · exact .inl ⟨rfl, BitVec.eq_of_toNat_eq (by simpa [hop, harg] using hword)⟩
  · exact .inr (.inl ⟨rfl, BitVec.eq_of_toNat_eq (by simpa [hop, harg] using hword)⟩)
  · refine .inr (.inr (.inl ⟨_, rfl, BitVec.eq_of_toNat_eq ?_⟩))
    rw [hword, hline, setcurWord_toNat, hop, harg]
    simp
  · refine .inr (.inr (.inr (.inl ⟨_, rfl, BitVec.eq_of_toNat_eq ?_⟩)))
    rw [hword, sendWord_toNat, hop]
    rfl
  · refine .inr (.inr (.inr (.inr ⟨_, rfl, BitVec.eq_of_toNat_eq ?_⟩)))
    rw [hword, sendWord_toNat, hop]
    rfl

/-- Every legal word is one of the commands' words. -/
theorem word_cases_of_legal {cw : CmdWord} (h : legal cw = true) :
    cw = 0x000 ∨ cw = 0x100 ∨ (∃ line, cw = setcurWord line) ∨ ∃ m v, cw = sendWord m v := by
  have harg := argField_toNat cw
  simp only [legal, Bool.or_eq_true, Bool.and_eq_true, beq_iff_eq, decide_eq_true_eq] at h
  obtain ((((rfl | rfl) | rfl) | rfl) | ⟨hlo, hhi⟩) | ⟨hlo, hhi⟩ := h
  · exact .inl rfl
  · exact .inr (.inl rfl)
  · exact .inr (.inr (.inl ⟨0, rfl⟩))
  · exact .inr (.inr (.inl ⟨1, rfl⟩))
  · refine .inr (.inr (.inr ⟨.instruction, argField cw, BitVec.eq_of_toNat_eq ?_⟩))
    rw [sendWord_toNat]
    dsimp only
    omega
  · refine .inr (.inr (.inr ⟨.data, argField cw, BitVec.eq_of_toNat_eq ?_⟩))
    rw [sendWord_toNat]
    dsimp only
    omega

/-- Every legal word decodes. -/
theorem decode_of_legal {cw : CmdWord} (h : legal cw = true) : ∃ i, decode cw = .ok i := by
  obtain rfl | rfl | ⟨line, rfl⟩ | ⟨m, v, rfl⟩ := word_cases_of_legal h
  · exact ⟨_, decode_initWord⟩
  · exact ⟨_, decode_clearWord⟩
  · exact ⟨_, Machine.decode_setcurWord line⟩
  · cases m with
    | instruction => exact ⟨_, Machine.decode_sendWord_instruction v⟩
    | data => exact ⟨_, Machine.decode_sendWord_data v⟩

/-- Settles O2: one word and its command for each constructor; a WRLINE is its SETCUR and a SENDD for each character. -/
theorem decodeOfEncodeIsTheCommands : Obligations.DecodeOfEncodeIsTheCommands := by
  intro i hi
  cases i with
  | init => simp only [encode, Instr.commands, List.map, decode_initWord]
  | clear => simp only [encode, Instr.commands, List.map, decode_clearWord]
  | setcur line => simp only [encode, Instr.commands, List.map, Machine.decode_setcurWord]
  | sendi value => simp only [encode, Instr.commands, List.map, Machine.decode_sendWord_instruction]
  | sendd value => simp only [encode, Instr.commands, List.map, Machine.decode_sendWord_data]
  | sendByte v m => rfl
  | sendNibble n => rfl
  | wrline text line =>
    simp only [encode, Instr.commands, if_pos hi, List.map_cons, List.map_map, Function.comp_def,
      Machine.decode_setcurWord, Machine.decode_sendWord_data]
  | sendb value mode =>
    cases mode with
    | instruction => simp only [encode, Instr.commands, List.map, Machine.decode_sendWord_instruction]
    | data => simp only [encode, Instr.commands, List.map, Machine.decode_sendWord_data]

/-- Settles O3: a word that decodes is the word of one of the five commands. -/
theorem decodedWordIsItsEncoding : Obligations.DecodedWordIsItsEncoding := by
  intro cw i h
  obtain ⟨rfl, rfl⟩ | ⟨rfl, rfl⟩ | ⟨line, rfl, rfl⟩ | ⟨v, rfl, rfl⟩ | ⟨v, rfl, rfl⟩ := word_cases_of_decode h <;>
    exact ⟨rfl, rfl, rfl⟩

/-- Settles O1, by evaluating the decoder on the ten words. -/
theorem sampleWordsDecode : Obligations.SampleWordsDecode := by
  unfold Obligations.SampleWordsDecode
  decide

/-- Settles O4: a legal word is one of the commands' words; a reserved one is rejected by its own branch of the decoder. -/
theorem legalWordsAreExactlyTheDecoded : Obligations.LegalWordsAreExactlyTheDecoded := by
  intro cw
  refine ⟨⟨decode_of_legal, fun ⟨_, h⟩ => Machine.legal_of_decode h⟩, ?initArg, ?clearArg, ?setcurArg, ?reservedOp⟩
  case initArg => rintro ⟨hop, harg⟩; simpa [decode, hop] using harg
  case clearArg => rintro ⟨hop, harg⟩; simpa [decode, hop] using harg
  case setcurArg => rintro ⟨hop, harg⟩; simpa [decode, hop] using harg
  case reservedOp => rintro (hop | hop | hop) <;> simp [decode, hop]

end Sys2Proof

namespace Sys2Proof.Machine

/- The initialization table (R85) -/

/-- The packed word of a byte entry with the delay `T_STEP`: `kind` is bit 10 and `dsel` is 0. -/
theorem word_byteStepEntry (v : Byte) : (⟨.byte, v, .step⟩ : InitEntry).word = 0x400 ||| v.setWidth 11 := by
  revert v
  decide

/-- Settles O5: `DISPCTL` is a byte entry with `T_STEP`, the other entries are constants. -/
theorem initTableEntryWords : Obligations.InitTableEntryWords := by
  intro c
  simp only [initTable, List.map, word_byteStepEntry]
  rfl

/- The internal operations (R91) -/

/-- Inside an expansion, not at its end, one micro-operation is performed to its end without retirement. -/
theorem runTimed_uop_inside {s : State} {u : Uop} {us : List Uop} (hw : s.cfg.wf = true) (hb : s.busy = true)
    (hd : s.dly = false) (hdrop : (expand s.cfg s.cmdr).drop s.upc.toNat = u :: us) (hus : us ≠ []) :
    runTimed (1 + if u.timed then 1 else 0) s = .next (s.runUop u) := by
  obtain ⟨-, hu, hrest⟩ := current_of_drop s u us hdrop
  have hlast : (s.upc + 1).toNat ≠ (expand s.cfg s.cmdr).length := by
    intro h
    rw [h, List.drop_length] at hrest
    exact hus hrest.symm
  rw [one_uop s u hw hb hd hu, if_neg hlast]

/-- The micro-operations `us` at the head of the rest of an expansion, which goes on after them, are performed in order. -/
theorem runTimed_leading (us : List Uop) {rest : List Uop} (hrest : rest ≠ []) (s : State) (hw : s.cfg.wf = true)
    (hb : s.busy = true) (hd : s.dly = false) (hdrop : (expand s.cfg s.cmdr).drop s.upc.toNat = us ++ rest) :
    runTimed (stepsFor us) s = .next (s.runUops us) := by
  induction us generalizing s with
  | nil => rfl
  | cons u us ih =>
    obtain ⟨-, -, htail⟩ := current_of_drop s u (us ++ rest) hdrop
    have hone := runTimed_uop_inside hw hb hd hdrop (List.append_ne_nil_of_right_ne_nil us hrest)
    rw [stepsFor_cons, State.runUops_cons, runTimed_add _ _ _ _ hone]
    exact ih (s.runUop u) (by simpa using hw) (by simpa using hb) (runUop_dly s u hd) (by simpa using htail)

/-- Where the block may perform, an internal operation performs its list. -/
theorem State.runInternal_of_performing (us : List Uop) {s : State} (hw : s.cfg.wf = true) (hb : s.busy = true)
    (hd : s.dly = false) : s.runInternal us = .next (s.runUops us) := by
  simp [State.runInternal, hw, hb, hd]

/-- Settles O43: both internal operations perform their lists, as the block's steps do inside an expansion. -/
theorem internalOperationsAreTheBlocksSteps : Obligations.InternalOperationsAreTheBlocksSteps := by
  intro s i rest hw hb hd hi hdrop hrest
  refine ⟨s.runUops (uopsOf s.cfg i), ?_, runTimed_leading _ hrest s hw hb hd hdrop⟩
  obtain ⟨n, rfl⟩ | ⟨v, m, rfl⟩ := hi
  · exact State.runInternal_of_performing _ hw hb hd
  · exact State.runInternal_of_performing _ hw hb hd

end Sys2Proof.Machine
end

section
/-! PROOFS. The pulse controller (spec/40_pulse_controller.md): a nibble performed to its end (R110, R111) and its contract (R114), and
the nested machines read off their tables (R113; 41_byte_transmission.md R134; 42_init_sequencer.md R148), which perform the flat
expansion: the pulse controller a nibble, the byte machine RS and two nibbles, the initializer its prologue and table entries. -/

namespace Sys2Proof.Machine

/- A nibble (R110, R111, R114) -/

/-- The micro-operations of a nibble, counted. -/
theorem length_sendNibbleUops (c : Config) (n : Nibble) : (sendNibbleUops c n).length = nibbleLen c.enStrategy := by
  unfold sendNibbleUops
  cases c.enStrategy <;> rfl

/-- What a nibble latches, in the words of 20_memory.md R61. -/
theorem nibbleItem_eq (oe : Lines) (b : Bool) (n : Nibble) :
    nibbleItem oe b n = if oe = Lines.on then .nibble b n else .undriven := by
  simp only [nibbleItem, Lines.allOn_iff]

/-- Settles O40: the meaning is the nibble's list performed, whose state is `run_nibble`. -/
theorem sendNibbleCompletes : Obligations.SendNibbleCompletes := by
  intro s n hw hb hd he
  rw [show exec (.sendNibble n) s = s.runInternal (sendNibbleUops s.cfg n) from rfl,
    State.runInternal_of_performing _ hw hb hd, run_nibble s n he hd, nibbleItem_eq, length_sendNibbleUops]
  cases s.cfg.enStrategy <;> rfl

/-- The three EN times of a well-formed configuration are at least `PW_MIN` (00_scope.md R6). -/
theorem pwMin_le_of_wf {c : Config} (hw : c.wf = true) :
    c.pwMin ≤ c.tEnSetup ∧ c.pwMin ≤ c.tEnWidth ∧ c.pwMin ≤ c.tEnHold := by
  simp only [Config.wf, Config.durationsLegal, Bool.and_eq_true, decide_eq_true_eq] at hw
  omega

/-- What a nibble performs before its pulse: DirectToggle writes EN idle first, TimerPulse only waits. -/
def setupUops (c : Config) : List Uop :=
  match c.enStrategy with
  | .directToggle => [.en (enIdle c), .delay c.tEnSetup]
  | .timerPulse => [.delay c.tEnSetup]

/-- The pulse and its hold, written out. -/
def pulseUops (c : Config) : List Uop := [.en (enAct c), .delay c.tEnWidth, .en (enIdle c), .delay c.tEnHold]

/-- A nibble with its PULSE written out. -/
theorem explode_sendNibbleUops (c : Config) (n : Nibble) :
    explode c (sendNibbleUops c n) = .data n :: setupUops c ++ pulseUops c := by
  unfold sendNibbleUops setupUops
  cases c.enStrategy <;> rfl

theorem mem_setupUops {c : Config} {u : Uop} (h : u ∈ setupUops c) : u = .en (enIdle c) ∨ u = .delay c.tEnSetup := by
  unfold setupUops at h
  cases hst : c.enStrategy <;> simp_all

theorem leastTime_setupUops (c : Config) : leastTime (setupUops c) = c.tEnSetup := by
  unfold setupUops
  cases c.enStrategy <;> simp [leastTime, Uop.time]

/-- A nibble pulses EN once. -/
theorem enPulses_sendNibbleUops (c : Config) (n : Nibble) : enPulses c (sendNibbleUops c n) = 1 := by
  unfold sendNibbleUops
  cases c.enStrategy <;> simp [enPulses, List.countP_cons, Uop.raisesEn, enIdle_ne_enAct]

/-- Settles O55. -/
theorem nibblePulseContract : Obligations.NibblePulseContract := fun c n hw =>
  ⟨setupUops c, explode_sendNibbleUops c n, fun _ => mem_setupUops, leastTime_setupUops c, enPulses_sendNibbleUops c n,
    pwMin_le_of_wf hw⟩

/- The pulse controller and the byte machine (R113, R134) -/

/-- The pulse controller performs the nibble in hand. -/
theorem getElem?_sendNibbleUops (c : Config) (n : Nibble) (j : Nat) :
    (sendNibbleUops c n)[j]? = phaseUop c n (pulsePhaseAt c.enStrategy j) := by
  unfold sendNibbleUops
  cases c.enStrategy with
  | directToggle => rcases j with _ | _ | _ | _ | _ | _ | _ | j <;> rfl
  | timerPulse => rcases j with _ | _ | _ | _ | j <;> rfl

/-- The byte machine's states after `B_RS`, in nibble lengths. -/
theorem byteStateAt_succ (st : EnStrategy) (j : Nat) :
    byteStateAt st (j + 1) = if j < nibbleLen st then .bHi else if j < 2 * nibbleLen st then .bLo else .bDone := by
  cases st <;> rfl

/-- The byte machine performs RS and two nibbles. -/
theorem getElem?_sendByteUops (c : Config) (v : Byte) (m : SendMode) (off : Nat) :
    (sendByteUops c v m)[off]? = byteUop c v m off := by
  cases off with
  | zero => unfold byteUop; cases c.enStrategy <;> rfl
  | succ j =>
    have hlist : (sendByteUops c v m)[j + 1]? = (sendNibbleUops c (hiNibble v) ++ sendNibbleUops c (loNibble v))[j]? := rfl
    rw [hlist, List.getElem?_append, length_sendNibbleUops, getElem?_sendNibbleUops, byteUop, bytePhaseAt, byteStateAt_succ]
    split_ifs with hhi hlo
    · rw [Nat.add_sub_cancel, Nat.mod_eq_of_lt hhi]
    · have hmod : j % nibbleLen c.enStrategy = j - nibbleLen c.enStrategy := by
        rw [Nat.mod_eq_sub_mod (by omega), Nat.mod_eq_of_lt (by omega)]
      rw [Nat.add_sub_cancel, hmod, getElem?_sendNibbleUops]
    · rw [List.getElem?_eq_none]
      rw [length_sendNibbleUops]
      omega

/-- The micro-operations of a byte, counted. -/
theorem length_sendByteUops (c : Config) (v : Byte) (m : SendMode) :
    (sendByteUops c v m).length = byteLen c.enStrategy := by
  simp only [sendByteUops, List.length_append, List.length_singleton, length_sendNibbleUops]
  cases c.enStrategy <;> rfl

/-- A list and one more micro-operation, at an index. -/
theorem getElem?_concat_uop (us : List Uop) (u : Uop) (k : Nat) :
    (us ++ [u])[k]? = if k = us.length then some u else us[k]? := by
  rw [List.getElem?_append, List.getElem?_singleton]
  obtain hlt | rfl | hgt := Nat.lt_trichotomy k us.length
  · rw [if_pos hlt, if_neg hlt.ne]
  · simp
  · rw [if_neg hgt.not_gt, if_neg (by omega), if_neg hgt.ne', List.getElem?_eq_none hgt.le]

/-- CLEAR is a byte and a delay (43_display_commands.md R165). -/
theorem getElem?_clearUops (c : Config) (k : Nat) : (clearUops c)[k]? = nestedUop c .clear k := by
  rw [clearUops, getElem?_concat_uop, length_sendByteUops, getElem?_sendByteUops]
  rfl

/- The initializer (R148) -/

/-- A table entry is a nibble or a byte, and its delay (42_init_sequencer.md R146). -/
theorem getElem?_entryUops (c : Config) (e : InitEntry) (off : Nat) : (entryUops c e)[off]? = entryUop c e off := by
  rw [entryUops, getElem?_concat_uop, entryUop]
  cases e.kind with
  | nib => rw [length_sendNibbleUops, getElem?_sendNibbleUops]
  | byte => rw [length_sendByteUops, getElem?_sendByteUops]

/-- The micro-operations of a table entry, counted. -/
def entryLen (st : EnStrategy) (k : EntryKind) : Nat :=
  match k with
  | .nib => nibbleLen st + 1
  | .byte => byteLen st + 1

theorem length_entryUops (c : Config) (e : InitEntry) : (entryUops c e).length = entryLen c.enStrategy e.kind := by
  unfold entryUops entryLen
  cases e.kind <;> simp [length_sendNibbleUops, length_sendByteUops]

/-- INIT up to entry `j` of its table. -/
def initUopsBefore (c : Config) (j : Nat) : List Uop := initPrologue ++ ((initTable c).take j).flatMap (entryUops c)

/-- INIT around one entry of its table. -/
theorem initUops_split {c : Config} {j : Nat} {e : InitEntry} (he : memRead c j = some e) :
    initUops c = initUopsBefore c j ++ (entryUops c e ++ ((initTable c).drop (j + 1)).flatMap (entryUops c)) := by
  obtain ⟨hj, rfl⟩ := List.getElem?_eq_some_iff.mp he
  rw [initUops, initUopsBefore, List.append_assoc, ← List.flatMap_cons, ← List.flatMap_append, List.getElem_cons_drop,
    List.take_append_drop]

/-- The micro-operations of INIT up to entry `j`, counted entry by entry. -/
theorem length_initUopsBefore (c : Config) (j : Nat) :
    (initUopsBefore c j).length = 7 + ((initKinds.take j).map (entryLen c.enStrategy)).sum := by
  have hkinds : initKinds = (initTable c).map InitEntry.kind := rfl
  rw [initUopsBefore, List.length_append, List.length_flatMap, hkinds, ← List.map_take, List.map_map]
  simp only [length_entryUops]
  rfl

/-- A state of the initializer starts where the entries before its own end (R148). -/
theorem length_initUopsBefore_entry (c : Config) {i : InitState} {j : Nat} (hi : initEntryIndex i = some j) :
    (initUopsBefore c j).length = initStateStart c.enStrategy i := by
  rw [length_initUopsBefore]
  cases i <;> cases hi <;> cases c.enStrategy <;> rfl

/-- `done` starts where the last entry ends (R148). -/
theorem length_initUops (c : Config) : (initUops c).length = initStateStart c.enStrategy .done := by
  rw [show initUops c = initUopsBefore c 8 from rfl, length_initUopsBefore]
  cases c.enStrategy <;> rfl

/-- Every state of the initializer that sends an entry has it in the table (30_encoding.md R85). -/
theorem exists_memRead_of_initEntryIndex (c : Config) {i : InitState} {j : Nat} (hi : initEntryIndex i = some j) :
    ∃ e, memRead c j = some e := by
  cases i <;> cases hi <;> exact ⟨_, rfl⟩

/-- The micro-operations a state of the initializer performs, counted (R148); `done` performs none. -/
def initStateLen (st : EnStrategy) (i : InitState) : Nat :=
  match i with
  | .iCfg => 6
  | .iRs => 1
  | .iE0 | .iE1 | .iE2 | .iE3 => entryLen st .nib
  | .iE4 | .iE5 | .iE6 | .iE7 => entryLen st .byte
  | .done => 0

theorem initStateLen_entry (c : Config) {i : InitState} {j : Nat} {e : InitEntry} (hi : initEntryIndex i = some j)
    (he : memRead c j = some e) : initStateLen c.enStrategy i = entryLen c.enStrategy e.kind := by
  cases i <;> cases hi <;> cases he <;> rfl

/-- `k` lies in the span of the state `i`; the span of `done` has no end. -/
def InitSpan (st : EnStrategy) (k : Nat) (i : InitState) : Prop :=
  initStateStart st i ≤ k ∧ (k < initStateStart st i + initStateLen st i ∨ i = .done)

/-- One line of R148's table. -/
theorem initSpan_ite {st : EnStrategy} {k last : Nat} {i i' : InitState} (hgt : last < k → InitSpan st k i')
    (hle : k ≤ last → InitSpan st k i) : InitSpan st k (if k ≤ last then i else i') := by
  split_ifs with h
  · exact hle h
  · exact hgt (Nat.lt_of_not_le h)

/-- The initializer is in each state for as long as the state performs micro-operations, and then in `done`. -/
theorem initStateAt_span (st : EnStrategy) (k : Nat) : InitSpan st k (initStateAt st k) := by
  cases st <;> simp only [initStateAt] <;> iterate 10 refine initSpan_ite (fun _ => ?_) (fun _ => ?_)
  all_goals simp only [InitSpan, initStateStart, initStateLen, entryLen, nibbleLen, byteLen, reduceCtorEq, or_true, and_true]
  all_goals omega

/-- What the initializer's view performs in a state that sends an entry. -/
theorem initUop_of_entry {c : Config} {j k : Nat} {e : InitEntry}
    (hi : initEntryIndex (initStateAt c.enStrategy k) = some j) (he : memRead c j = some e) :
    initUop c k = entryUop c e (k - initStateStart c.enStrategy (initStateAt c.enStrategy k)) := by
  unfold initUop
  cases hst : initStateAt c.enStrategy k <;> rw [hst] at hi <;> cases hi <;> simp only [initEntryIndex, Option.bind_some, he]

/-- INIT's list at an index in the span of a state that sends an entry. -/
theorem getElem?_initUops_of_span {c : Config} {i : InitState} {j k : Nat} {e : InitEntry}
    (hi : initEntryIndex i = some j) (he : memRead c j = some e) (hk : InitSpan c.enStrategy k i) :
    (initUops c)[k]? = entryUop c e (k - initStateStart c.enStrategy i) := by
  obtain ⟨hlo, hhi | rfl⟩ := hk
  · rw [initStateLen_entry c hi he] at hhi
    rw [initUops_split he, List.getElem?_append_right (by rwa [length_initUopsBefore_entry c hi]),
      length_initUopsBefore_entry c hi, List.getElem?_append_left (by rw [length_entryUops]; omega), getElem?_entryUops]
  · cases hi

/-- The prologue: six pins, then RS. -/
theorem getElem?_initPrologue (k : Nat) :
    initPrologue[k]? = if k = 6 then some (.rs false) else (cfgPinAt k).map Uop.cfgOut := by
  rcases k with _ | _ | _ | _ | _ | _ | _ | k <;> rfl

/-- INIT's list begins with the prologue. -/
theorem getElem?_initUops_of_lt {c : Config} {k : Nat} (hk : k < 7) : (initUops c)[k]? = initPrologue[k]? :=
  List.getElem?_append_left hk

/-- The initializer performs INIT's expansion. -/
theorem getElem?_initUops (c : Config) (k : Nat) : (initUops c)[k]? = initUop c k := by
  have hspan := initStateAt_span c.enStrategy k
  cases hi : initEntryIndex (initStateAt c.enStrategy k) with
  | some j =>
    obtain ⟨e, he⟩ := exists_memRead_of_initEntryIndex c hi
    rw [getElem?_initUops_of_span hi he hspan, initUop_of_entry hi he]
  | none =>
    cases hst : initStateAt c.enStrategy k <;> rw [hst] at hi hspan
    case iCfg =>
      have hk : k < 6 := by simpa [InitSpan, initStateStart, initStateLen] using hspan
      rw [initUop, hst, getElem?_initUops_of_lt (by omega), getElem?_initPrologue, if_neg (by omega)]
    case iRs =>
      obtain rfl : k = 6 := by
        simp only [InitSpan, initStateStart, initStateLen, reduceCtorEq, or_false] at hspan
        omega
      rw [initUop, hst]
      rfl
    case done =>
      rw [initUop, hst, List.getElem?_eq_none (by simpa only [length_initUops] using hspan.1)]
    all_goals cases hi

/-- The expansion of a word that decodes. -/
theorem expand_of_decode (c : Config) {cw : CmdWord} {i : Instr} (h : decode cw = .ok i) : expand c cw = uopsOf c i := by
  simp only [expand, h]

/-- Settles O50: INIT is the initializer's, CLEAR a byte with a delay, every other command one byte. -/
theorem nestedMachinesAgreeWithTheExpansion : Obligations.NestedMachinesAgreeWithTheExpansion := by
  intro c cw i h k
  rw [expand_of_decode c h]
  obtain rfl | rfl | ⟨line, rfl⟩ | ⟨v, rfl⟩ | ⟨v, rfl⟩ := decode_cases h
  · exact getElem?_initUops c k
  · exact getElem?_clearUops c k
  · exact getElem?_sendByteUops c (cursorByte line) .instruction k
  · exact getElem?_sendByteUops c v .instruction k
  · exact getElem?_sendByteUops c v .data k

end Sys2Proof.Machine
end

section
/-! PROOFS. What the static parameters of the pulse controller change (spec/40_pulse_controller.md R111, R112): under another
`EN_STRATEGY` or `EN_ACTIVE` an instruction's list differs in its nibbles only (`DifferInNibbles`), so each fact is proved for one
nibble and carried along that relation. -/

namespace Sys2Proof.Machine

/- Lists that differ in their nibbles (R110, R111) -/

/-- A micro-operation that does not write EN, and so is the same under every strategy and polarity. -/
def Uop.leavesEn (u : Uop) : Bool :=
  match u with
  | .cfgOut _ => true
  | .rs _ => true
  | .data _ => true
  | .en _ => false
  | .delay _ => true
  | .pulse _ => false

/-- `us` and `vs` are the same micro-operations, but for the nibbles sent, each by the list of `c` in `us` and of `d` in `vs`. -/
inductive DifferInNibbles (c d : Config) : List Uop → List Uop → Prop
  | nil : DifferInNibbles c d [] []
  | cons {u : Uop} {us vs : List Uop} (hu : u.leavesEn = true) (h : DifferInNibbles c d us vs) :
      DifferInNibbles c d (u :: us) (u :: vs)
  | nibble (n : Nibble) {us vs : List Uop} (h : DifferInNibbles c d us vs) :
      DifferInNibbles c d (sendNibbleUops c n ++ us) (sendNibbleUops d n ++ vs)

namespace DifferInNibbles

variable {c d : Config}

/-- One list after the other. -/
theorem append {us vs us' vs' : List Uop} (h : DifferInNibbles c d us vs) (h' : DifferInNibbles c d us' vs') :
    DifferInNibbles c d (us ++ us') (vs ++ vs') := by
  induction h with
  | nil => exact h'
  | cons hu _ ih => exact .cons hu ih
  | nibble n _ ih => simpa only [List.append_assoc] using ih.nibble n

/-- Many lists one after the other. -/
theorem flatMap {α : Type} {f g : α → List Uop} (h : ∀ a, DifferInNibbles c d (f a) (g a)) (as : List α) :
    DifferInNibbles c d (as.flatMap f) (as.flatMap g) := by
  induction as with
  | nil => exact .nil
  | cons a as ih => simpa only [List.flatMap_cons] using (h a).append ih

theorem sendNibble (n : Nibble) : DifferInNibbles c d (sendNibbleUops c n) (sendNibbleUops d n) := by
  simpa using nil.nibble n

theorem delay (t : Nat) : DifferInNibbles c d [.delay t] [.delay t] := .cons rfl .nil

theorem sendByte (v : Byte) (m : SendMode) : DifferInNibbles c d (sendByteUops c v m) (sendByteUops d v m) :=
  .cons rfl ((sendNibble _).append (sendNibble _))

theorem prologue : DifferInNibbles c d initPrologue initPrologue :=
  .cons rfl (.cons rfl (.cons rfl (.cons rfl (.cons rfl (.cons rfl (.cons rfl .nil))))))

theorem entry (hdelay : delayOf d = delayOf c) (e : InitEntry) :
    DifferInNibbles c d (entryUops c e) (entryUops d e) := by
  unfold entryUops
  rw [hdelay]
  refine append ?_ (delay _)
  cases e.kind with
  | nib => exact sendNibble _
  | byte => exact sendByte _ _

/-- Under two configurations with the same delays and the same table every instruction differs in its nibbles only. -/
theorem of_same_table (hdelay : delayOf d = delayOf c) (htable : initTable d = initTable c) (i : Instr) :
    DifferInNibbles c d (uopsOf c i) (uopsOf d i) := by
  cases i with
  | init =>
    have h := flatMap (entry hdelay) (initTable c)
    exact prologue.append (by rwa [htable])
  | clear =>
    have hclear : d.tClear = c.tClear := congrFun hdelay .clear
    exact (sendByte _ _).append (hclear ▸ delay _)
  | setcur line => exact sendByte _ _
  | sendi value => exact sendByte _ _
  | sendd value => exact sendByte _ _
  | sendByte v m => exact sendByte _ _
  | sendNibble n => exact sendNibble n
  | wrline text line => exact (sendByte _ _).append (flatMap (fun ch => sendByte (charCode ch) .data) text)
  | sendb value mode =>
    cases mode with
    | instruction => exact sendByte _ _
    | data => exact sendByte _ _

end DifferInNibbles

/- One waveform (R111; 20_memory.md R60) -/

/-- The two strategies' lists for an instruction. -/
theorem differInNibbles_strategies (c : Config) (i : Instr) :
    DifferInNibbles (withStrategy c .directToggle) (withStrategy c .timerPulse)
      (uopsOf (withStrategy c .directToggle) i) (uopsOf (withStrategy c .timerPulse) i) :=
  DifferInNibbles.of_same_table (c := withStrategy c .directToggle) (d := withStrategy c .timerPulse) rfl rfl i

theorem explode_append (c : Config) (us vs : List Uop) : explode c (us ++ vs) = explode c us ++ explode c vs := by
  simp only [explode, List.flatMap_append]

/-- Only a PULSE is written out. -/
theorem explode_cons_of_leavesEn (c : Config) {u : Uop} (us : List Uop) (hu : u.leavesEn = true) :
    explode c (u :: us) = u :: explode c us := by
  cases u with
  | en b => cases hu
  | pulse t => cases hu
  | _ => rfl

/-- `us` and `vs` keep the same writes from every lines with EN at `l`. -/
def KeepSameWrites (l : Bool) (us vs : List Uop) : Prop :=
  ∀ x oe : Lines, x.en = l → dropUnchanged x oe us = dropUnchanged x oe vs

/-- A micro-operation that leaves EN alone may be put before both. -/
theorem KeepSameWrites.cons {l : Bool} {us vs : List Uop} (h : KeepSameWrites l us vs) {u : Uop} (hu : u.leavesEn = true) :
    KeepSameWrites l (u :: us) (u :: vs) := by
  intro x oe hx
  cases u with
  | cfgOut p => simp only [dropUnchanged, h x _ hx]
  | rs b => simp only [dropUnchanged, h x oe hx, h { x with rs := b } oe hx]
  | data n => simp only [dropUnchanged, h x oe hx, h (x.setData n) oe hx]
  | delay t => simp only [dropUnchanged, h x oe hx]
  | en b => cases hu
  | pulse t => cases hu

/-- From EN idle, what is left of a nibble after its DATA is the same under both strategies: DirectToggle's first EN changes
nothing, and TimerPulse's PULSE is written out. -/
theorem dropUnchanged_pulse (c : Config) (rest : List Uop) {x : Lines} (oe : Lines) (hx : x.en = enIdle c) :
    dropUnchanged x oe (setupUops c ++ pulseUops c ++ rest) =
      .delay c.tEnSetup :: pulseUops c ++ dropUnchanged x oe rest := by
  have hne := enIdle_ne_enAct c
  have hback : ({ x with en := enIdle c } : Lines) = x := by rw [← hx]
  unfold setupUops
  cases c.enStrategy <;> simp [pulseUops, dropUnchanged, hx, hne, hne.symm, hback]

/-- A nibble, by the list of either strategy, may be put before both. -/
theorem KeepSameWrites.nibble {c : Config} {us vs : List Uop} (h : KeepSameWrites (enIdle c) us vs) (n : Nibble) :
    KeepSameWrites (enIdle c) (explode c (sendNibbleUops (withStrategy c .directToggle) n) ++ us)
      (explode c (sendNibbleUops (withStrategy c .timerPulse) n) ++ vs) := by
  have written_out (st : EnStrategy) : explode c (sendNibbleUops (withStrategy c st) n) = _ :=
    explode_sendNibbleUops (withStrategy c st) n
  rw [written_out, written_out]
  refine KeepSameWrites.cons (fun x oe hx => ?_) (u := .data n) rfl
  have hdirect := dropUnchanged_pulse (withStrategy c .directToggle) us oe hx
  have htimer := dropUnchanged_pulse (withStrategy c .timerPulse) vs oe hx
  exact hdirect.trans ((congrArg _ (h x oe hx)).trans htimer.symm)

/-- Lists that differ in their nibbles' strategy keep the same writes. -/
theorem DifferInNibbles.keepSameWrites {c : Config} {us vs : List Uop}
    (h : DifferInNibbles (withStrategy c .directToggle) (withStrategy c .timerPulse) us vs) :
    KeepSameWrites (enIdle c) (explode c us) (explode c vs) := by
  induction h with
  | nil => exact fun _ _ _ => rfl
  | cons hu _ ih =>
    rw [explode_cons_of_leavesEn c _ hu, explode_cons_of_leavesEn c _ hu]
    exact ih.cons hu
  | nibble n _ ih =>
    rw [explode_append, explode_append]
    exact ih.nibble n

/-- Settles O52: the lists keep the same writes, so no merging of delays is needed. -/
theorem bothStrategiesHaveOneWaveform : Obligations.BothStrategiesHaveOneWaveform := by
  intro c i x oe hx
  rw [waveform, waveform, (differInNibbles_strategies c i).keepSameWrites x oe hx]

/- One stream (R111; 20_memory.md R61) -/

/-- The latches, the `oe` bits, the latched stream and the levels of EN are the same in `s` and `t`. -/
structure SameLines (s t : State) : Prop where
  idle : enIdle t.cfg = enIdle s.cfg
  act : enAct t.cfg = enAct s.cfg
  x : t.x = s.x
  oe : t.oe = s.oe
  latched : t.latched = s.latched

namespace SameLines

variable {s t : State}

theorem writeEn (h : SameLines s t) (b : Bool) : SameLines (s.writeEn b) (t.writeEn b) where
  idle := by simpa using h.idle
  act := by simpa using h.act
  x := by simp [h.x]
  oe := by simpa using h.oe
  latched := by
    simp only [State.writeEn_latched, State.edgeItems, State.latchItem, h.idle, h.act, h.x, h.oe, h.latched]

theorem startTimer (h : SameLines s t) (pulse : Bool) (d : Nat) :
    SameLines (s.startTimer pulse d) (t.startTimer pulse d) :=
  ⟨h.idle, h.act, h.x, h.oe, h.latched⟩

theorem emit (h : SameLines s t) (u : Uop) : SameLines (s.emit u) (t.emit u) := by
  suffices heffect : SameLines (s.effect u) (t.effect u) from
    ⟨heffect.idle, heffect.act, heffect.x, heffect.oe, heffect.latched⟩
  cases u with
  | cfgOut p => exact ⟨h.idle, h.act, h.x, by simp only [State.effect, h.oe], h.latched⟩
  | rs b => exact ⟨h.idle, h.act, by simp only [State.effect, h.x], h.oe, h.latched⟩
  | data n => exact ⟨h.idle, h.act, by simp only [State.effect, h.x], h.oe, h.latched⟩
  | en b => exact h.writeEn b
  | delay d => exact h.startTimer false d
  | pulse d =>
    rw [State.effect, State.effect, h.act]
    exact (h.writeEn _).startTimer true d

theorem endTimer (h : SameLines s t) (u : Uop) : SameLines (s.endTimer u) (t.endTimer u) := by
  cases u with
  | pulse d =>
    rw [State.endTimer, State.endTimer, h.idle]
    have hen := h.writeEn (enIdle s.cfg)
    exact ⟨hen.idle, hen.act, hen.x, hen.oe, hen.latched⟩
  | _ => exact ⟨h.idle, h.act, h.x, h.oe, h.latched⟩

theorem clearOuts (h : SameLines s t) : SameLines s.clearOuts t.clearOuts := ⟨h.idle, h.act, h.x, h.oe, h.latched⟩

theorem nextUpc (h : SameLines s t) : SameLines s.nextUpc t.nextUpc := ⟨h.idle, h.act, h.x, h.oe, h.latched⟩

/-- A micro-operation performed to its end does the same to both. -/
theorem runUop (h : SameLines s t) (u : Uop) : SameLines (s.runUop u) (t.runUop u) := by
  unfold State.runUop
  split
  · exact ((h.clearOuts.emit u).endTimer u).clearOuts.nextUpc
  · exact (h.clearOuts.emit u).nextUpc

theorem runUops (us : List Uop) {s t : State} (h : SameLines s t) : SameLines (s.runUops us) (t.runUops us) := by
  induction us generalizing s t with
  | nil => exact h
  | cons u us ih => exact ih (h.runUop u)

end SameLines

/-- A nibble from EN idle, by the list of either strategy and with `dly` at any level: `run_nibble`, whose lines and stream do not
depend on `dly`. -/
theorem runUops_nibble_lines {s : State} (n : Nibble) (he : s.x.en = enIdle s.cfg) :
    SameLines { s with x := s.x.setData n, latched := s.latched ++ [nibbleItem s.oe s.x.rs n] }
      (s.runUops (sendNibbleUops s.cfg n)) := by
  have hdly : SameLines { s with dly := false } s := ⟨rfl, rfl, rfl, rfl, rfl⟩
  have h := hdly.runUops (sendNibbleUops s.cfg n)
  have hrun := run_nibble { s with dly := false } n he rfl
  rw [hrun] at h
  exact ⟨h.idle, h.act, h.x, h.oe, h.latched⟩

/-- A nibble from EN idle, by the two lists of `s` and of `t`, does the same to both. -/
theorem SameLines.nibble {s t : State} (h : SameLines s t) (n : Nibble) (he : s.x.en = enIdle s.cfg) :
    SameLines (s.runUops (sendNibbleUops s.cfg n)) (t.runUops (sendNibbleUops t.cfg n)) := by
  have hs := runUops_nibble_lines n he
  have ht := runUops_nibble_lines (s := t) n (by rw [h.x, h.idle, he])
  constructor
  case idle => rw [ht.idle, hs.idle, h.idle]
  case act => rw [ht.act, hs.act, h.act]
  case x => simp only [ht.x, hs.x, h.x]
  case oe => simp only [ht.oe, hs.oe, h.oe]
  case latched => simp only [ht.latched, hs.latched, h.latched, h.oe, h.x]

/-- A nibble leaves EN idle. -/
theorem runUops_nibble_en {s : State} (n : Nibble) (he : s.x.en = enIdle s.cfg) :
    (s.runUops (sendNibbleUops s.cfg n)).x.en = enIdle s.cfg := by
  rw [(runUops_nibble_lines n he).x]
  exact he

/-- A micro-operation that leaves EN alone. -/
theorem runUop_en_of_leavesEn (s : State) {u : Uop} (hu : u.leavesEn = true) : (s.runUop u).x.en = s.x.en := by
  cases u with
  | en b => cases hu
  | pulse t => cases hu
  | _ => rfl

/-- Lists that differ in their nibbles do the same to the lines and the latched stream. -/
theorem DifferInNibbles.sameLines {c d : Config} {us vs : List Uop} (h : DifferInNibbles c d us vs) {s t : State}
    (hst : SameLines s t) (hs : s.cfg = c) (ht : t.cfg = d) (he : s.x.en = enIdle c) :
    SameLines (s.runUops us) (t.runUops vs) := by
  induction h generalizing s t with
  | nil => exact hst
  | cons hu _ ih =>
    rw [State.runUops_cons, State.runUops_cons]
    exact ih (hst.runUop _) (by simpa using hs) (by simpa using ht) ((runUop_en_of_leavesEn s hu).trans he)
  | nibble n _ ih =>
    subst hs ht
    rw [State.runUops_append, State.runUops_append]
    exact ih (hst.nibble n he) (State.runUops_frame _ s).1 (State.runUops_frame _ t).1 (runUops_nibble_en n he)

/-- Settles O53: the lists differ in their nibbles, and the two states in the configuration only. -/
theorem bothStrategiesLatchOneStream : Obligations.BothStrategiesLatchOneStream := by
  intro s i he
  have hstart : SameLines { s with cfg := withStrategy s.cfg .directToggle }
      { s with cfg := withStrategy s.cfg .timerPulse } := ⟨rfl, rfl, rfl, rfl, rfl⟩
  have h := (differInNibbles_strategies s.cfg i).sameLines hstart rfl rfl he
  exact ⟨h.latched, h.x, h.oe⟩

/- Polarity (R112) -/

/-- What leaves EN alone has no EN level to invert. -/
theorem invertEn_of_leavesEn {u : Uop} (hu : u.leavesEn = true) : invertEn u = u := by
  cases u with
  | en b => cases hu
  | _ => rfl

/-- A nibble under `EN_ACTIVE = Low`. -/
theorem sendNibbleUops_low (c : Config) (n : Nibble) :
    sendNibbleUops (withActive c .low) n = (sendNibbleUops (withActive c .high) n).map invertEn := by
  have hst (a : EnActive) : (withActive c a).enStrategy = c.enStrategy := rfl
  simp only [sendNibbleUops, hst]
  cases c.enStrategy <;> rfl

/-- Lists that differ in their nibbles' polarity differ in EN levels. -/
theorem DifferInNibbles.eq_map_invertEn {c : Config} {us vs : List Uop}
    (h : DifferInNibbles (withActive c .high) (withActive c .low) us vs) : vs = us.map invertEn := by
  induction h with
  | nil => rfl
  | cons hu _ ih => rw [List.map_cons, invertEn_of_leavesEn hu, ih]
  | nibble n _ ih => rw [List.map_append, sendNibbleUops_low, ih]

/-- Settles O54: the lists differ in their nibbles, and a nibble's in its EN levels; the reset value is by definition. -/
theorem polarityInvertsEnOnly : Obligations.PolarityInvertsEnOnly := fun c i =>
  ⟨(DifferInNibbles.of_same_table (c := withActive c .high) (d := withActive c .low) rfl rfl i).eq_map_invertEn, rfl⟩

end Sys2Proof.Machine
end

section
/-! PROOFS. Byte transmission (spec/41_byte_transmission.md): the order within SEND_BYTE's list (R133), a byte performed to its end
(R130), and a command that sends one byte, from its accept step to its retirement (R131, R132). The last is stated for any
word whose expansion is one byte, as that of every byte send is. -/

namespace Sys2Proof.Machine

/- The order of a byte (R133) -/

/-- A nibble after its DATA, the same for every nibble. -/
def strobeUops (c : Config) : List Uop := (sendNibbleUops c 0).tail

/-- A nibble is its DATA and the strobe. -/
theorem sendNibbleUops_eq_cons (c : Config) (n : Nibble) : sendNibbleUops c n = .data n :: strobeUops c := by
  unfold strobeUops sendNibbleUops
  cases c.enStrategy <;> rfl

/-- The strobe writes neither RS nor the data lines. -/
theorem writesLines_of_mem_strobeUops {c : Config} {u : Uop} (h : u ∈ strobeUops c) : u.writesLines = false := by
  unfold strobeUops sendNibbleUops at h
  cases hst : c.enStrategy <;> simp only [hst, List.tail_cons, List.mem_cons, List.not_mem_nil, or_false] at h
  case directToggle => obtain rfl | rfl | rfl | rfl | rfl | rfl := h <;> rfl
  case timerPulse => obtain rfl | rfl | rfl := h <;> rfl

/-- The strobe has the nibble's one EN pulse. -/
theorem enPulses_strobeUops (c : Config) : enPulses c (strobeUops c) = 1 := by
  have h := enPulses_sendNibbleUops c 0
  rwa [sendNibbleUops_eq_cons, enPulses, List.countP_cons_of_neg (by simp [Uop.raisesEn])] at h

/-- The high nibble as a number. -/
theorem hiNibble_toNat (v : Byte) : (hiNibble v).toNat = v.toNat / 16 := by
  simp only [hiNibble, BitVec.extractLsb'_toNat, Nat.shiftRight_eq_div_pow]
  omega

/-- The low nibble as a number. -/
theorem loNibble_toNat (v : Byte) : (loNibble v).toNat = v.toNat % 16 := by
  simp [loNibble]

/-- Settles O56: each nibble is its DATA and a strobe, which pulses EN once and writes no line. -/
theorem sendByteOrder : Obligations.SendByteOrder := by
  intro c v m
  refine ⟨strobeUops c, strobeUops c, ?_, fun u hu => ?_, enPulses_strobeUops c, enPulses_strobeUops c,
    hiNibble_append_loNibble v, hiNibble_toNat v, loNibble_toNat v⟩
  · simp only [sendByteUops, sendNibbleUops_eq_cons, List.cons_append, List.nil_append]
  · exact writesLines_of_mem_strobeUops ((List.mem_append.mp hu).elim id id)

/- A byte performed to its end (R130) -/

/-- RS and the two nibbles written, with EN idle: no line keeps a level of its own. -/
theorem linesAfterByte_eq {x : Lines} {c : Config} (he : x.en = enIdle c) (b : Bool) (v : Byte) :
    linesAfterByte c b v = ({ x with rs := b }.setData (hiNibble v)).setData (loNibble v) := by
  simp only [linesAfterByte, Lines.setData, he]

/-- `run_nibble` with the configuration under a name of its own, so that it rewrites a nibble run from a state written out. -/
theorem run_nibble_of_cfg {s : State} {c : Config} {n : Nibble} (hc : s.cfg = c) (he : s.x.en = enIdle c)
    (hd : s.dly = false) :
    s.runUops (sendNibbleUops c n) =
      { s with
        x := s.x.setData n
        upc := s.upc + BitVec.ofNat 7 (sendNibbleUops c n).length
        outs := .quiet
        trace := s.trace ++ (sendNibbleUops c n).map .op
        latched := s.latched ++ [nibbleItem s.oe s.x.rs n] } := by
  subst hc
  exact run_nibble s n he hd

/-- The state of `s` after SEND_BYTE's list, from EN idle. -/
theorem run_byte (s : State) (v : Byte) (m : SendMode) (he : s.x.en = enIdle s.cfg) (hd : s.dly = false) :
    s.runUops (sendByteUops s.cfg v m) =
      { s with
        x := linesAfterByte s.cfg (rsLevel m) v
        upc := s.upc + BitVec.ofNat 7 (sendByteUops s.cfg v m).length
        outs := .quiet
        trace := s.trace ++ (sendByteUops s.cfg v m).map .op
        latched := s.latched ++ byteItems s.oe (rsLevel m) v } := by
  have length_eq : (sendByteUops s.cfg v m).length =
      1 + (sendNibbleUops s.cfg (hiNibble v)).length + (sendNibbleUops s.cfg (loNibble v)).length := by
    simp only [sendByteUops, List.length_append, List.length_singleton]
  rw [length_eq, linesAfterByte_eq he, sendByteUops, State.runUops_append, State.runUops_append, State.runUops_cons,
    State.runUops_nil, run_rs]
  simp [run_nibble_of_cfg, he, hd, Lines.setData, byteItems, BitVec.ofNat_add, BitVec.add_assoc]

/-- Settles O41: the meaning is the byte's list performed, whose state is `run_byte`. -/
theorem sendByteCompletes : Obligations.SendByteCompletes := by
  intro s v m hw hb hd he
  rw [show exec (.sendByte v m) s = s.runInternal (sendByteUops s.cfg v m) from rfl,
    State.runInternal_of_performing _ hw hb hd, run_byte s v m he hd, length_sendByteUops]
  cases s.cfg.enStrategy <;> rfl

/- A command that sends one byte (R131, R132) -/

/-- The words of the byte sends, as R131 and R132 write them. -/
theorem sendWord_eq_add (m : SendMode) (v : Byte) :
    sendWord m v = (match m with | .instruction => 0x400 | .data => 0x500) + v.setWidth 11 := by
  refine BitVec.eq_of_toNat_eq ?_
  rw [sendWord_toNat, BitVec.toNat_add, BitVec.toNat_setWidth]
  cases m <;> simp only [BitVec.reduceToNat] <;> omega

/-- The expansion of a byte send is the byte. -/
theorem expand_sendWord (c : Config) (m : SendMode) (v : Byte) : expand c (sendWord m v) = sendByteUops c v m := by
  cases m with
  | instruction => exact expand_of_decode c (decode_sendWord_instruction v)
  | data => exact expand_of_decode c (decode_sendWord_data v)

/-- An idle block that takes commands accepts the word at the port. -/
theorem State.takesCommands.atPort {s : State} (hs : s.takesCommands) (cw : CmdWord) :
    s.atPort (State.takeIfReady cw) = .next (s.accepted cw s.life) := by
  obtain ⟨hw, hb, -, -, hready⟩ := hs
  have hstrict : ¬(s.cfg.strictInit = true ∧ s.life ≠ .ready) := fun ⟨h, hne⟩ => hne (hready h)
  simp [State.atPort, State.takeIfReady, State.take, State.accepted, hw, hb, hstrict]

/-- A command other than INIT retires with `busy` as its only change. -/
theorem State.retire_of_not_init {s : State} (hi : isInit s.cmdr = false) : s.retire = { s with busy := false } := by
  simp [State.retire, hi]

/-- A command other than INIT that was accepted performs its expansion and retires, with `life` as it was. -/
theorem State.takesCommands.runTimed_accepted {s : State} (hs : s.takesCommands) {cw : CmdWord} {us : List Uop}
    (hx : expand s.cfg cw = us) (hus : us ≠ []) (hi : isInit cw = false) :
    runTimed (stepsFor us) (s.accepted cw s.life) = .next { (s.accepted cw s.life).runUops us with busy := false } := by
  obtain ⟨hw, -, hd, -, -⟩ := hs
  obtain ⟨-, -, -, hcmdr, -⟩ := State.runUops_frame us (s.accepted cw s.life)
  rw [runTimed_rest us (s.accepted cw s.life) hw rfl hd hus hx, State.retire_of_not_init (by rw [hcmdr]; exact hi)]

/-- An instruction that presents the word `cw`, whose expansion is one byte, is accepted, sends the byte and retires. -/
theorem State.takesCommands.sendsByte {s : State} (hs : s.takesCommands) {i : Instr} {cw : CmdWord} {v : Byte} {m : SendMode}
    (hexec : exec i s = s.atPort (State.takeIfReady cw)) (hx : expand s.cfg cw = sendByteUops s.cfg v m)
    (hi : isInit cw = false) :
    ∃ t, exec i s = .next t ∧ t = s.accepted cw s.life ∧
      runTimed (stepsFor (sendByteUops s.cfg v m)) t =
        .next (s.retiredByte cw (sendByteUops s.cfg v m) (rsLevel m) v) := by
  refine ⟨_, hexec.trans (hs.atPort cw), rfl, ?_⟩
  have ⟨_, _, hd, he, _⟩ := hs
  have hrun : (s.accepted cw s.life).runUops (sendByteUops s.cfg v m) = _ := run_byte (s.accepted cw s.life) v m he hd
  rw [hs.runTimed_accepted hx (List.cons_ne_nil _ _) hi, hrun]
  simp [State.accepted, State.retiredByte]

/-- Settles O39: each of the four presents a byte send's word, whose expansion is one byte. -/
theorem byteSendsComplete : Obligations.ByteSendsComplete := by
  intro s v hs
  have instruction_word : sendWord .instruction v = 0x400 + v.setWidth 11 := sendWord_eq_add .instruction v
  have data_word : sendWord .data v = 0x500 + v.setWidth 11 := sendWord_eq_add .data v
  rw [← instruction_word, ← data_word]
  have sends {i : Instr} (m : SendMode) (hexec : exec i s = s.atPort (State.takeIfReady (sendWord m v))) :=
    hs.sendsByte hexec (expand_sendWord s.cfg m v) (isInit_sendWord m v)
  exact ⟨sends .instruction rfl, sends .data rfl, sends .instruction rfl, sends .data rfl⟩

end Sys2Proof.Machine
end

section
/-! PROOFS. The initialization sequence (spec/42_init_sequencer.md): INIT from its accept step to its retirement (R145 to R147) with
the nibbles it latches (R152), its repetition (R151), and the initializer's states beside the lifecycle (R148, R149). INIT's list
is performed piece by piece, the prologue and then entry after entry, each piece's outcome written as one `State.performed`. -/

namespace Sys2Proof.Machine

/- Lists performed piece by piece (R146) -/

/-- The state of `s` after the list `us`, which leaves the latches at `x` and the enables at `oe` and latches `items`. -/
def State.performed (s : State) (us : List Uop) (x oe : Lines) (items : List Latched) : State :=
  { s with
    x := x
    oe := oe
    upc := s.upc + BitVec.ofNat 7 us.length
    outs := .quiet
    trace := s.trace ++ us.map .op
    latched := s.latched ++ items }

/-- One list after the other. -/
theorem State.performed_performed (s : State) (us vs : List Uop) (x x' oe oe' : Lines) (items items' : List Latched) :
    (s.performed us x oe items).performed vs x' oe' items' = s.performed (us ++ vs) x' oe' (items ++ items') := by
  simp [State.performed, BitVec.ofNat_add, BitVec.add_assoc]

/-- The prologue drives every pin and sets RS low. -/
theorem run_initPrologue (s : State) :
    s.runUops initPrologue = s.performed initPrologue { s.x with rs := false } Lines.on [] := by
  simp [initPrologue, run_cfgOut, run_rs, State.performed, Lines.set, Lines.on, BitVec.add_assoc]

/-- What an entry of the table latches while every pin is driven: its nibble, or its byte's two. -/
def entryItems (e : InitEntry) : List Latched :=
  match e.kind with
  | .nib => [.nibble false (loNibble e.value)]
  | .byte => [.nibble false (hiNibble e.value), .nibble false (loNibble e.value)]

/-- An entry performed while every pin is driven, from RS low and EN idle: both its kinds leave its low nibble on the lines. -/
theorem run_entry {s : State} (e : InitEntry) (hrs : s.x.rs = false) (he : s.x.en = enIdle s.cfg) (hoe : s.oe = Lines.on)
    (hd : s.dly = false) :
    s.runUops (entryUops s.cfg e) =
      s.performed (entryUops s.cfg e) (linesAfterByte s.cfg false e.value) Lines.on (entryItems e) := by
  have lines : s.x.setData (loNibble e.value) = linesAfterByte s.cfg false e.value := by
    simp only [linesAfterByte, Lines.setData, hrs, he]
  unfold entryUops entryItems
  cases e.kind with
  | nib =>
    simp [State.runUops_append, run_nibble s _ he hd, run_delay, hd, lines, hrs, hoe, nibbleItem, Lines.allOn_iff,
      State.performed, BitVec.ofNat_add, BitVec.add_assoc]
  | byte =>
    simp [State.runUops_append, run_byte s _ _ he hd, run_delay, hd, rsLevel, hoe, byteItems, nibbleItem, Lines.allOn_iff,
      State.performed, BitVec.ofNat_add, BitVec.add_assoc]

/-- Entries performed one after the other: each starts with the lines the one before it leaves. -/
theorem run_entries (es : List InitEntry) (e : InitEntry) {s : State} (hrs : s.x.rs = false) (he : s.x.en = enIdle s.cfg)
    (hoe : s.oe = Lines.on) (hd : s.dly = false) :
    s.runUops ((e :: es).flatMap (entryUops s.cfg)) =
      s.performed ((e :: es).flatMap (entryUops s.cfg))
        (linesAfterByte s.cfg false ((e :: es).getLast (List.cons_ne_nil e es)).value) Lines.on
        ((e :: es).flatMap entryItems) := by
  induction es generalizing e s with
  | nil => simpa using run_entry e hrs he hoe hd
  | cons e' es ih =>
    have rest := ih e'
      (s := s.performed (entryUops s.cfg e) (linesAfterByte s.cfg false e.value) Lines.on (entryItems e)) rfl rfl rfl hd
    rw [List.flatMap_cons, State.runUops_append, run_entry e hrs he hoe hd]
    exact rest.trans (State.performed_performed ..)

/-- INIT's list performed from EN idle, whatever else the lines and enables were. -/
theorem run_init {s : State} (he : s.x.en = enIdle s.cfg) (hd : s.dly = false) :
    s.runUops (initUops s.cfg) =
      s.performed (initUops s.cfg) (linesAfterByte s.cfg false 0x02) Lines.on ((initTable s.cfg).flatMap entryItems) := by
  have entries := run_entries (initTable s.cfg).tail ⟨.nib, 0x03, .reset⟩
    (s := s.performed initPrologue { s.x with rs := false } Lines.on []) rfl he rfl hd
  rw [initUops, State.runUops_append, run_initPrologue]
  exact entries.trans (State.performed_performed ..)

/-- The high nibble of a legal `DISPCTL` is 0 (00_scope.md R6). -/
theorem hiNibble_dispctl {c : Config} (hw : c.wf = true) : hiNibble c.dispctl = 0x0 := by
  simp only [Config.wf, Config.dispctlLegal, Bool.and_eq_true, Bool.or_eq_true, beq_iff_eq] at hw
  obtain ⟨⟨-, ((h | h) | h) | h⟩, -⟩ := hw <;> rw [h] <;> decide

/-- The twelve nibbles of R152. -/
theorem initTable_items {c : Config} (hw : c.wf = true) :
    (initTable c).flatMap entryItems =
      [.nibble false 0x3, .nibble false 0x3, .nibble false 0x3, .nibble false 0x2, .nibble false 0x2,
        .nibble false 0x8, .nibble false 0x0, .nibble false (loNibble c.dispctl), .nibble false 0x0,
        .nibble false 0x1, .nibble false 0x0, .nibble false 0x2] := by
  simp only [initTable, List.flatMap_cons, List.flatMap_nil, entryItems, hiNibble_dispctl hw]
  rfl

/- INIT as a command (R145, R147, R151) -/

/-- An idle block accepts INIT in every lifecycle state. -/
theorem exec_init_idle {s : State} (hw : s.cfg.wf = true) (hb : s.busy = false) :
    exec .init s = .next (s.accepted 0x000 .initializing) := by
  simp [exec, execInit, State.atPort, hw, hb, State.take, State.accepted]

/-- INIT's word has INIT's `op` (30_encoding.md R81). -/
theorem isInit_initWord : isInit 0x000 = true := by decide

/-- INIT retires into Ready. -/
theorem State.retire_of_init {s : State} (hi : isInit s.cmdr = true) :
    s.retire = { s with busy := false, life := .ready } := by
  simp [State.retire, hi]

/-- The state in which INIT, accepted in `s`, retires (R147). -/
def State.initialized (s : State) : State :=
  { s with life := .ready, busy := false, cmdr := 0x000, upc := 0 }.performed (initUops s.cfg)
    (linesAfterByte s.cfg false 0x02) Lines.on ((initTable s.cfg).flatMap entryItems)

/-- The accepted INIT performs its whole list, from EN idle, and retires. -/
theorem runTimed_accepted_init {s : State} (hw : s.cfg.wf = true) (hd : s.dly = false) (he : s.x.en = enIdle s.cfg) :
    runTimed (stepsFor (initUops s.cfg)) (s.accepted 0x000 .initializing) = .next s.initialized := by
  have hx : (expand s.cfg 0x000).drop (0 : Upc).toNat = initUops s.cfg := expand_init s.cfg
  have hrun : (s.accepted 0x000 .initializing).runUops (initUops s.cfg) = _ :=
    run_init (s := s.accepted 0x000 .initializing) he hd
  have hinit : isInit ((s.accepted 0x000 .initializing).runUops (initUops s.cfg)).cmdr = true := by
    rw [hrun]
    exact isInit_initWord
  rw [runTimed_rest (initUops s.cfg) (s.accepted 0x000 .initializing) hw rfl hd (List.cons_ne_nil _ _) hx,
    State.retire_of_init hinit, hrun]
  rfl

/-- Settles O35: an idle block accepts INIT, and the state it retires in is that of R147 with the nibbles of R152. -/
theorem initCompletes : Obligations.InitCompletes := by
  intro s hw hb hd he
  refine ⟨_, exec_init_idle hw hb, rfl, ?_⟩
  rw [runTimed_accepted_init hw hd he]
  simp [State.initialized, State.performed, initTable_items hw]

/-- Settles O36: the state in which INIT retires accepts INIT again, and both runs append the same list and the same nibbles,
which depend on the configuration only. -/
theorem repeatedInitEndsInTheSameState : Obligations.RepeatedInitEndsInTheSameState := by
  intro s hw hb hd he
  exact ⟨s.accepted 0x000 .initializing, s.initialized, s.initialized.accepted 0x000 .initializing,
    s.initialized.initialized, (initUops s.cfg).map .op, (initTable s.cfg).flatMap entryItems,
    exec_init_idle hw hb, runTimed_accepted_init hw hd he,
    exec_init_idle (s := s.initialized) hw rfl, runTimed_accepted_init (s := s.initialized) hw hd rfl, rfl, rfl, rfl⟩

/- The initializer's states beside the lifecycle (R148, R149) -/

/-- The only legal word with INIT's `op` is INIT's. -/
theorem eq_initWord_of_isInit {cw : CmdWord} (hl : legal cw = true) (hi : isInit cw = true) : cw = 0x000 := by
  obtain rfl | rfl | ⟨line, rfl⟩ | ⟨m, v, rfl⟩ := word_cases_of_legal hl
  · rfl
  · exact absurd hi (by decide)
  · revert line
    decide
  · simp [isInit_sendWord] at hi

/-- The initializer is in `done` from the end of INIT's list on. -/
theorem initStateAt_eq_done_iff (c : Config) (k : Nat) :
    initStateAt c.enStrategy k = .done ↔ (initUops c).length ≤ k := by
  obtain ⟨hlo, hhi⟩ := initStateAt_span c.enStrategy k
  rw [length_initUops]
  refine ⟨fun h => h ▸ hlo, fun hk => hhi.resolve_left fun hlt => ?_⟩
  have before_done (st : EnStrategy) (i : InitState) : initStateStart st i + initStateLen st i ≤ initStateStart st .done := by
    cases st <;> cases i <;> decide
  have := before_done c.enStrategy (initStateAt c.enStrategy k)
  omega

/-- While INIT is in flight the initializer is in the state of `upc`, which is not `done`. -/
theorem State.Inv.initState_of_init {s : State} (h : s.Inv) (hb : s.busy = true) (hi : isInit s.cmdr = true) :
    s.initState = some (initStateAt s.cfg.enStrategy s.upc.toNat) ∧ initStateAt s.cfg.enStrategy s.upc.toNat ≠ .done := by
  obtain ⟨hlt, hlegal⟩ := h.in_flight hb
  rw [expand_of_isInit hi (Nat.zero_lt_of_lt hlt)] at hlt
  refine ⟨by simp [State.initState, eq_initWord_of_isInit hlegal hi, hb], ?_⟩
  rw [Ne, initStateAt_eq_done_iff]
  exact hlt.not_ge

/-- The initializer is in a state other than `done` only while INIT is in flight. -/
theorem State.init_of_initState {s : State} {i : InitState} (h : s.initState = some i) (hne : i ≠ .done) :
    s.busy = true ∧ isInit s.cmdr = true := by
  unfold State.initState at h
  split_ifs at h with hcmdr hb
  · exact ⟨hb, hcmdr ▸ isInit_initWord⟩
  · exact absurd (Option.some.inj h).symm hne

/-- A step of a busy block that is no reset keeps the command in flight. -/
theorem cycle_busy_keeps_cmdr {inp : Inputs} {s t : State} (hb : s.busy = true) (hr : inp.rst = false)
    (h : cycle inp s = .next t) : t.cmdr = s.cmdr := by
  obtain ⟨-, hreset | hwait | htimer | htimed | huntimed | hidle | hword⟩ := cycle_cases inp s t h
  · simp [hr] at hreset
  · obtain ⟨-, -, -, -, rfl⟩ := hwait
    rfl
  · obtain ⟨-, -, -, u, -, -, rfl⟩ := htimer
    simp
  · obtain ⟨-, -, -, u, -, -, rfl⟩ := htimed
    simp
  · obtain ⟨-, -, -, u, -, -, rfl⟩ := huntimed
    simp
  · simp [hb] at hidle
  · simp [hb] at hword

/-- An idle block with INIT's word in `cmdr` and `upc` at the end of INIT's list is in `done`. -/
theorem State.initState_eq_done {s : State} (hcmdr : s.cmdr = 0x000) (hb : s.busy = false)
    (hupc : s.upc.toNat = (initUops s.cfg).length) : s.initState = some .done := by
  have hdone := (initStateAt_eq_done_iff s.cfg s.upc.toNat).mpr hupc.ge
  simp [State.initState, hcmdr, hb, hdone]

/-- A step that ends in Ready is no reset. -/
theorem rst_eq_false_of_ready {inp : Inputs} {s t : State} (h : cycle inp s = .next t) (hready : t.life = .ready) :
    inp.rst = false := by
  obtain ⟨-, ⟨-, rfl⟩ | hrest⟩ := cycle_cases inp s t h
  · cases hready
  · by_contra hr
    simp [hr] at hrest

/-- Settles O51: Initializing means that INIT is in flight (R39 (c)), and the step to Ready is its retirement, with `upc` at the
end of its list (O25). -/
theorem initializerStatesFollowTheLifecycle : Obligations.InitializerStatesFollowTheLifecycle := by
  intro s h
  refine ⟨⟨fun hl => ?_, fun ⟨i, hi, hne⟩ => h.initializing.mpr (State.init_of_initState hi hne)⟩, ?_⟩
  · obtain ⟨hb, hi⟩ := h.initializing.mp hl
    exact ⟨_, h.initState_of_init hb hi⟩
  · intro inp t hc hl hready
    obtain ⟨hb, hi⟩ := h.initializing.mp hl
    obtain ⟨hlt, hlegal⟩ := h.in_flight hb
    have hr := rst_eq_false_of_ready hc hready
    obtain ⟨-, hretires, hlife⟩ := advanceAndRetirement inp s t hb hr hc
    have hidle : t.busy = false := by
      by_contra hbt
      simp [hbt, hl, hready] at hlife
    obtain ⟨-, hupc⟩ := hretires.mp hidle
    rw [expand_of_isInit hi (Nat.zero_lt_of_lt hlt), ← cycle_keeps_cfg hc] at hupc
    exact State.initState_eq_done ((cycle_busy_keeps_cmdr hb hr hc).trans (eq_initWord_of_isInit hlegal hi)) hidle hupc

end Sys2Proof.Machine
end

section
/-! PROOFS. The display commands (spec/43_display_commands.md): SETCUR and CLEAR from the accept step to the retirement (R165, R166),
and the delay after the byte 0x01 (R167). SETCUR sends one byte and nothing else, so it goes by `State.takesCommands.sendsByte`;
CLEAR's delay makes it a command of its own, and an entry of INIT's table. -/

namespace Sys2Proof.Machine

/- SETCUR (R166) -/

/-- SETCUR's word is no INIT. -/
theorem isInit_setcurWord (line : BitVec 1) : isInit (setcurWord line) = false := by revert line; decide

/-- SETCUR's word for each line (30_encoding.md R81). -/
theorem setcurWord_eq (line : BitVec 1) : setcurWord line = if line = 0 then 0x200 else 0x201 := by revert line; decide

/-- SETCUR's byte for each line (30_encoding.md R87). -/
theorem cursorByte_eq (line : BitVec 1) : cursorByte line = if line = 0 then 0x80 else 0xC0 := by revert line; decide

/-- Settles O38: SETCUR presents a word whose expansion is the cursor byte. -/
theorem setcurCompletes : Obligations.SetcurCompletes := by
  intro s line hs
  rw [← setcurWord_eq, ← cursorByte_eq]
  exact hs.sendsByte rfl (expand_of_decode s.cfg (decode_setcurWord line)) (isInit_setcurWord line)

/- CLEAR (R165) -/

/-- CLEAR's word is no INIT. -/
theorem isInit_clearWord : isInit 0x100 = false := by decide

/-- CLEAR's list performed from EN idle: the delay after the byte changes no line. -/
theorem run_clear {s : State} (he : s.x.en = enIdle s.cfg) (hd : s.dly = false) :
    s.runUops (clearUops s.cfg) =
      s.performed (clearUops s.cfg) (linesAfterByte s.cfg false 0x01) s.oe (byteItems s.oe false 0x01) := by
  rw [clearUops, State.runUops_append, run_byte s 0x01 .instruction he hd, State.runUops_cons, State.runUops_nil]
  simp [run_delay, hd, State.performed, rsLevel, BitVec.ofNat_add, BitVec.add_assoc]

/-- Settles O37: the block accepts CLEAR, performs its list, whose state is `run_clear`, and retires. -/
theorem clearCompletes : Obligations.ClearCompletes := by
  intro s hs
  have ⟨_, _, hd, he, _⟩ := hs
  have hrun : (s.accepted 0x100 s.life).runUops (clearUops s.cfg) = _ := run_clear (s := s.accepted 0x100 s.life) he hd
  refine ⟨_, hs.atPort 0x100, rfl, ?_⟩
  rw [hs.runTimed_accepted (expand_clear s.cfg) (List.cons_ne_nil _ _) isInit_clearWord, hrun]
  simp [State.performed, State.accepted, State.retiredByte]

/- The delay after the byte 0x01 (R167) -/

/-- The micro-operation in which a nibble is latched: DirectToggle writes EN idle, a PULSE ends by itself (20_memory.md R61). -/
def latchingUop (c : Config) : Uop :=
  match c.enStrategy with
  | .directToggle => .en (enIdle c)
  | .timerPulse => .pulse c.tEnWidth

/-- The two latching micro-operations of R167. -/
theorem latchingUop_cases (c : Config) : latchingUop c = .en (enIdle c) ∨ latchingUop c = .pulse c.tEnWidth := by
  unfold latchingUop
  cases c.enStrategy with
  | directToggle => exact .inl rfl
  | timerPulse => exact .inr rfl

/-- A nibble ends with its latching and the hold (40_pulse_controller.md R110, R111). -/
theorem sendNibbleUops_ends_with_hold (c : Config) (n : Nibble) :
    ∃ body, sendNibbleUops c n = body ++ [latchingUop c, .delay c.tEnHold] := by
  unfold sendNibbleUops latchingUop
  cases c.enStrategy with
  | directToggle => exact ⟨[.data n, .en (enIdle c), .delay c.tEnSetup, .en (enAct c), .delay c.tEnWidth], rfl⟩
  | timerPulse => exact ⟨[.data n, .delay c.tEnSetup], rfl⟩

/-- A byte ends with the latching of its low nibble and the hold (41_byte_transmission.md R130). -/
theorem sendByteUops_ends_with_hold (c : Config) (v : Byte) (m : SendMode) :
    ∃ body, sendByteUops c v m = body ++ [latchingUop c, .delay c.tEnHold] := by
  obtain ⟨body, hbody⟩ := sendNibbleUops_ends_with_hold c (loNibble v)
  exact ⟨_, by rw [sendByteUops, hbody, ← List.append_assoc]⟩

/-- CLEAR's list stands whole in INIT's: it is entry 6 of the table (R165). -/
theorem initUops_eq_around_clearUops (c : Config) :
    initUops c = initUopsBefore c 6 ++ clearUops c ++ ((initTable c).drop 7).flatMap (entryUops c) :=
  (initUops_split (e := ⟨.byte, 0x01, .clear⟩) rfl).trans (List.append_assoc ..).symm

/-- `T_CLEAR` of a well-formed configuration is at least 1600 (00_scope.md R6). -/
theorem tClear_ge_of_wf {c : Config} (hw : c.wf = true) : 1600 ≤ c.tClear := by
  simp only [Config.wf, Config.durationsLegal, Bool.and_eq_true, decide_eq_true_eq] at hw
  omega

/-- Settles O58: CLEAR's list, alone or inside INIT's, is the byte, which ends with the latching and the hold, and the delay. -/
theorem clearIsFollowedByItsDelay : Obligations.ClearIsFollowedByItsDelay := by
  intro c us hw hus
  obtain ⟨before, after, hsplit⟩ : ∃ before after, us = before ++ clearUops c ++ after := by
    obtain rfl | rfl := hus
    · exact ⟨[], [], by simp⟩
    · exact ⟨_, _, initUops_eq_around_clearUops c⟩
  refine ⟨before, latchingUop c, after, ?_, sendByteUops_ends_with_hold c 0x01 .instruction, latchingUop_cases c, rfl,
    tClear_ge_of_wf hw⟩
  rw [hsplit, clearUops, ← List.append_assoc before]

end Sys2Proof.Machine
end

section
/-! PROOFS. The Line/Text Writer (spec/44_text_writer.md): when a WRLINE has an expansion and what its words are (R180, R182), and
its run from the first word to the last retirement (R180, R181). Each of its commands sends one byte, so the run is
`State.takesCommands.runWith_commandPorts` once for SETCUR and then once for each character. -/

namespace Sys2Proof.Machine

/- The expansion (R180, R182) -/

/-- A WRLINE has an expansion if its line is 0 or 1 (R180) and each character fits 8 bits (R182). -/
theorem wf_wrline_iff {text : List Nat} {line : Nat} :
    (Instr.wrline text line).wf = true ↔ line < 2 ∧ ∀ ch ∈ text, ch < 256 := by
  simp [Instr.wf]

/-- Settles O34: either operand out of range leaves WRLINE without an expansion. -/
theorem wrlineWithoutExpansionIsRefused : Obligations.WrlineWithoutExpansionIsRefused := by
  intro s text line hw hout
  have hwf : ¬(Instr.wrline text line).wf = true := by
    rw [wf_wrline_iff]
    rintro ⟨hline, htext⟩
    obtain hline' | ⟨ch, hch, hbig⟩ := hout
    · exact absurd hline (by omega)
    · exact absurd (htext ch hch) (by omega)
  rw [show exec (.wrline text line) s = execWrline text line s from rfl, execWrline, if_pos hw, if_neg hwf]

/-- A WRLINE with an expansion puts SETCUR's word and a SENDD word for each character before the host's words. -/
theorem exec_wrline {s : State} {text : List Nat} {line : Nat} (hw : s.cfg.wf = true) (hline : line < 2)
    (htext : ∀ ch ∈ text, ch < 256) :
    exec (.wrline text line) s = .next
      { s with
        host := setcurWord (BitVec.ofNat 1 line) :: (text.map (fun ch => sendWord .data (charCode ch)) ++ s.host) } := by
  have hwf := wf_wrline_iff.mpr ⟨hline, htext⟩
  rw [show exec (.wrline text line) s = execWrline text line s from rfl, execWrline, if_pos hw, if_pos hwf, encode,
    if_pos hwf, List.cons_append]

/-- SETCUR's word for line 0 or 1 as R180 writes it. -/
theorem setcurWord_ofNat {line : Nat} (hline : line < 2) :
    setcurWord (BitVec.ofNat 1 line) = BitVec.ofNat 11 (0x200 + line) := by
  refine BitVec.eq_of_toNat_eq ?_
  rw [setcurWord_toNat, BitVec.toNat_ofNat, BitVec.toNat_ofNat]
  omega

/-- SENDD's word for a character of 8 bits as R180 writes it. -/
theorem sendWord_charCode {ch : Nat} (hch : ch < 256) :
    sendWord .data (charCode ch) = BitVec.ofNat 11 (0x500 + ch) := by
  refine BitVec.eq_of_toNat_eq ?_
  rw [sendWord_toNat, charCode, BitVec.toNat_ofNat, BitVec.toNat_ofNat]
  dsimp only
  omega

/-- Settles O46: the words of `exec_wrline`, written as numbers. -/
theorem wrlineExpandsIntoItsWords : Obligations.WrlineExpandsIntoItsWords := by
  intro s text line hw hline htext
  have hchars : text.map (fun ch => sendWord .data (charCode ch)) = text.map (fun ch => BitVec.ofNat 11 (0x500 + ch)) :=
    List.map_congr_left fun ch hch => sendWord_charCode (htext ch hch)
  rw [exec_wrline hw hline htext, setcurWord_ofNat hline, hchars, List.cons_append]

/- The run (R180, R181) -/

/-- After a byte has been sent the block takes the next command. -/
theorem State.takesCommands.retiredByte {s : State} (hs : s.takesCommands) (cw : CmdWord) (us : List Uop) (b : Bool)
    (v : Byte) : (s.retiredByte cw us b v).takesCommands := by
  obtain ⟨hw, -, hd, -, hready⟩ := hs
  exact ⟨hw, rfl, hd, rfl, hready⟩

/-- A command that sends one byte, from the step in which its word is presented to its retirement. -/
theorem State.takesCommands.runWith_commandPorts {s : State} (hs : s.takesCommands) {i : Instr} {cw : CmdWord} {v : Byte}
    {m : SendMode} (hdecode : decode cw = .ok i) (hexec : ∀ t, exec i t = t.atPort (State.takeIfReady cw))
    (huops : uopsOf s.cfg i = sendByteUops s.cfg v m) (hi : isInit cw = false) (rest : List CmdWord) :
    runWith (commandPorts (sendByteUops s.cfg v m)) { s with host := cw :: rest } =
      .next { s.retiredByte cw (sendByteUops s.cfg v m) (rsLevel m) v with host := rest } := by
  have ⟨hw, hb, _⟩ := hs
  have htakes : ({ s.clearOuts with host := rest } : State).takesCommands := hs
  obtain ⟨_, haccept, rfl, hrun⟩ := htakes.sendsByte (hexec _) ((expand_of_decode s.cfg hdecode).trans huops) hi
  have hcycle := cycle_accept (inp := .present) (s := { s with host := cw :: rest }) hw hb rfl rfl rfl hdecode
  rw [commandPorts, runWith, hcycle.trans haccept]
  exact hrun

/-- SETCUR from its word to its retirement. -/
theorem State.takesCommands.runWith_setcur {s : State} (hs : s.takesCommands) (line : BitVec 1) (rest : List CmdWord) :
    runWith (commandPorts (setcurUops s.cfg line)) { s with host := setcurWord line :: rest } =
      .next { s.retiredByte (setcurWord line) (setcurUops s.cfg line) false (cursorByte line) with host := rest } :=
  hs.runWith_commandPorts (decode_setcurWord line) (fun _ => rfl) rfl (isInit_setcurWord line) rest

/-- SENDD from its word to its retirement. -/
theorem State.takesCommands.runWith_sendd {s : State} (hs : s.takesCommands) (v : Byte) (rest : List CmdWord) :
    runWith (commandPorts (senddUops s.cfg v)) { s with host := sendWord .data v :: rest } =
      .next { s.retiredByte (sendWord .data v) (senddUops s.cfg v) true v with host := rest } :=
  hs.runWith_commandPorts (decode_sendWord_data v) (fun _ => rfl) rfl (isInit_sendWord .data v) rest

/-- The lines after the characters of a text are sent from `x`: those of the last byte, and `x` if there is none. -/
def linesAfterText (c : Config) (x : Lines) (text : List Nat) : Lines :=
  text.foldl (fun _ ch => linesAfterByte c true (charCode ch)) x

/-- The last character alone decides the lines (R180). -/
theorem linesAfterText_concat (c : Config) (x : Lines) (text : List Nat) (ch : Nat) :
    linesAfterText c x (text ++ [ch]) = linesAfterByte c true (charCode ch) :=
  List.foldl_concat ..

/-- The SENDD commands of a text send every character; what the last one leaves in `cmdr`, `upc` and `outs` is not said. -/
theorem State.takesCommands.runWith_text (text : List Nat) {s : State} (hs : s.takesCommands) (rest : List CmdWord) :
    ∃ cmdr upc outs, runWith (text.flatMap fun ch => commandPorts (senddUops s.cfg (charCode ch)))
        { s with host := text.map (fun ch => sendWord .data (charCode ch)) ++ rest } = .next
      { s with
        x := linesAfterText s.cfg s.x text
        cmdr := cmdr
        upc := upc
        host := rest
        outs := outs
        trace := s.trace ++ (text.flatMap fun ch => senddUops s.cfg (charCode ch)).map .op
        latched := s.latched ++ text.flatMap fun ch => byteItems s.oe true (charCode ch) } := by
  induction text generalizing s with
  | nil => exact ⟨s.cmdr, s.upc, s.outs, by simp [runWith, linesAfterText]⟩
  | cons ch text ih =>
    have ⟨_, hb, _⟩ := hs
    have hchar := hs.runWith_sendd (charCode ch) (text.map (fun ch => sendWord .data (charCode ch)) ++ rest)
    obtain ⟨cmdr, upc, outs, htext⟩ := ih (hs.retiredByte (sendWord .data (charCode ch)) _ true (charCode ch))
    refine ⟨cmdr, upc, outs, (runWith_append _ _ _ _ hchar).trans (htext.trans ?_)⟩
    simp [State.retiredByte, linesAfterText, hb]

/-- Settles O47: SETCUR sends the cursor byte, and the SENDD commands then send the characters. -/
theorem wrlineSendsEveryCharacter : Obligations.WrlineSendsEveryCharacter := by
  intro s text line hs hline htext
  have ⟨hw, _, hd, _, _⟩ := hs
  have hcursor : cursorByte (BitVec.ofNat 1 line) = if line = 0 then 0x80 else 0xC0 := by
    interval_cases line <;> rfl
  have hsetcur := hs.runWith_setcur (BitVec.ofNat 1 line) (text.map (fun ch => sendWord .data (charCode ch)) ++ s.host)
  obtain ⟨cmdr, upc, outs, hchars⟩ := (hs.retiredByte (setcurWord (BitVec.ofNat 1 line))
    (setcurUops s.cfg (BitVec.ofNat 1 line)) false (cursorByte (BitVec.ofNat 1 line))).runWith_text text s.host
  refine ⟨_, _, exec_wrline hw hline htext, (runWith_append _ _ _ _ hsetcur).trans hchars, rfl, rfl, hd, rfl, rfl, ?lines,
    ?trace, ?latched⟩
  case lines =>
    rw [← hcursor]
    obtain rfl | ⟨init, ch, rfl⟩ := text.eq_nil_or_concat'
    · rfl
    · rw [List.getLast?_concat]
      exact linesAfterText_concat _ _ init ch
  case trace => simp [State.retiredByte, wrlineUops]
  case latched =>
    rw [← hcursor]
    rfl

end Sys2Proof.Machine
end

section
/-! PROOFS. The exceptions and their absence (spec/60_exceptions.md): the two refusals (R192, R193), the events that are ignored
(R195, R196), no step that stops (R190), the lifecycle's table (R200), and that a command in flight retires (R207), before INIT as
well (R194). What a step does under the invariant is said per situation of the sequencer, so each statement is those steps put
together. -/

namespace Sys2Proof.Machine

/- The two refusals (R192, R193, R197) -/

/-- Under `STRICT_INIT`, an idle block that is not Ready answers a command at its port with `NotInitialized`. -/
theorem State.atPort_notInitialized {s : State} (cw : CmdWord) (hw : s.cfg.wf = true) (hb : s.busy = false)
    (hs : s.cfg.strictInit = true) (hl : s.life ≠ .ready) :
    s.atPort (State.takeIfReady cw) = .next (s.raise .notInitialized) := by
  simp [State.atPort, State.takeIfReady, hw, hb, hs, hl]

/-- Settles O32: each command but INIT presents a word at the port, which refuses it; INIT does not look at `life`. -/
theorem notInitializedChangesNothing : Obligations.NotInitializedChangesNothing := by
  intro s i hw hb hs hl hi
  have refused {i : Instr} (cw : CmdWord) (hexec : exec i s = s.atPort (State.takeIfReady cw)) :
      exec i s = .next (s.raise .notInitialized) := hexec.trans (State.atPort_notInitialized cw hw hb hs hl)
  refine ⟨?_, rfl, exec_init_idle hw hb⟩
  obtain rfl | ⟨line, rfl⟩ | ⟨v, rfl⟩ | ⟨v, rfl⟩ | ⟨v, m, rfl⟩ := hi
  · exact refused 0x100 rfl
  · exact refused (setcurWord line) rfl
  · exact refused (sendWord .instruction v) rfl
  · exact refused (sendWord .data v) rfl
  · cases m with
    | instruction => exact refused (sendWord .instruction v) rfl
    | data => exact refused (sendWord .data v) rfl

/-- The accept step of a reserved word. -/
theorem cycle_illegal {inp : Inputs} {s : State} {cw : CmdWord} {rest : List CmdWord} {e : DecodeError}
    (hw : s.cfg.wf = true) (hb : s.busy = false) (hr : inp.rst = false) (hv : inp.cmdValid = true)
    (hh : s.host = cw :: rest) (he : decode cw = .error e) :
    cycle inp s = .next ({ s.clearOuts with host := rest }.raise .illegalCommand) := by
  simp [cycle, State.acceptWord, hw, hb, hr, hv, hh, he]

/-- A word that is not legal does not decode. -/
theorem decode_eq_error_of_not_legal {cw : CmdWord} (h : legal cw = false) : ∃ e, decode cw = .error e := by
  cases hd : decode cw with
  | ok i => simp [legal_of_decode hd] at h
  | error e => exact ⟨e, rfl⟩

/-- Settles O33: a reserved word does not decode, so its accept step is `cycle_illegal`. -/
theorem illegalCommandChangesNothing : Obligations.IllegalCommandChangesNothing := by
  intro s done cw rest hw hb hh hl
  obtain ⟨e, he⟩ := decode_eq_error_of_not_legal hl
  exact ⟨cycle_illegal hw hb rfl rfl hh he, rfl⟩

/- What is ignored (R195, R196) -/

/-- The reset step, whatever else is asserted (70_reset_and_hazards.md R220). -/
theorem cycle_reset {inp : Inputs} {s : State} (hw : s.cfg.wf = true) (hr : inp.rst = true) :
    cycle inp s = .next s.resetStep := by
  simp [cycle, hw, hr]

/-- Settles O22: `cycle` looks at `tmr_done` in the branch with `dly = 1` only. -/
theorem timerDoneIgnoredUnlessAwaited : Obligations.TimerDoneIgnoredUnlessAwaited := by
  intro s rst valid hd
  simp only [cycle, hd, Bool.false_eq_true, if_false]

/-- No micro-operation answers at the port. -/
theorem State.emit_cmdResp (s : State) (u : Uop) : (s.emit u).outs.cmdResp = s.outs.cmdResp := by
  cases u <;> simp [State.emit, State.effect]

/-- A step of a busy block takes no word and answers nothing, a reset step included. -/
theorem cycle_busy_takes_no_word {inp : Inputs} {s t : State} (hb : s.busy = true) (h : cycle inp s = .next t) :
    t.host = s.host ∧ t.outs.cmdResp = none := by
  obtain ⟨-, hreset | hwait | htimer | htimed | huntimed | hidle | hword⟩ := cycle_cases inp s t h
  · obtain ⟨-, rfl⟩ := hreset
    exact ⟨rfl, rfl⟩
  · obtain ⟨-, -, -, -, rfl⟩ := hwait
    exact ⟨rfl, rfl⟩
  · obtain ⟨-, -, -, u, -, -, rfl⟩ := htimer
    simp [Outs.quiet]
  · obtain ⟨-, -, -, u, -, -, rfl⟩ := htimed
    simp [State.emit_cmdResp, Outs.quiet]
  · obtain ⟨-, -, -, u, -, -, rfl⟩ := huntimed
    simp [State.emit_cmdResp, Outs.quiet]
  · simp [hb] at hidle
  · simp [hb] at hword

/-- Settles O19: `cycle` looks at `cmd_valid` in the branch with `busy = 0` only. -/
theorem busyBlockTakesNoWord : Obligations.BusyBlockTakesNoWord := by
  intro s rst done hb
  refine ⟨by simp only [cycle, hb, if_true], fun valid t h => ?_⟩
  obtain ⟨hhost, hresp⟩ := cycle_busy_takes_no_word hb h
  exact ⟨hhost, hresp, fun hr => cycle_busy_keeps_cmdr hb hr h⟩

/- No step stops (R190, R207) -/

/-- Under the invariant a command in flight has a micro-operation at `upc`. -/
theorem State.Inv.exists_current {s : State} (h : s.Inv) (hb : s.busy = true) : ∃ u, s.current = some u :=
  ⟨_, List.getElem?_eq_getElem (h.in_flight hb).1⟩

/-- The command port answers or waits. -/
theorem State.atPort_next (answer : State → State) {s : State} (hw : s.cfg.wf = true) :
    ∃ t, s.atPort answer = .next t := by
  cases hb : s.busy with
  | false => exact ⟨answer s, by simp [State.atPort, hw, hb]⟩
  | true => exact ⟨s, State.atPort_busy answer hw hb⟩

/-- No instruction that a word decodes to stops. -/
theorem exec_next_of_decode {s : State} {cw : CmdWord} {i : Instr} (hw : s.cfg.wf = true) (hi : decode cw = .ok i) :
    ∃ t, exec i s = .next t := by
  obtain rfl | rfl | ⟨line, rfl⟩ | ⟨v, rfl⟩ | ⟨v, rfl⟩ := decode_cases hi
  · exact State.atPort_next (fun t => { t with life := .initializing }.take 0x000) hw
  all_goals exact State.atPort_next _ hw

/-- No step of an idle block stops. -/
theorem cycle_idle_next {inp : Inputs} {s : State} (hw : s.cfg.wf = true) (hb : s.busy = false) (hr : inp.rst = false) :
    ∃ t, cycle inp s = .next t := by
  cases hv : inp.cmdValid with
  | false => exact ⟨_, cycle_idle_hold hw hb hr (.inl hv)⟩
  | true =>
    cases hh : s.host with
    | nil => exact ⟨_, cycle_idle_hold hw hb hr (.inr hh)⟩
    | cons cw rest =>
      cases hi : decode cw with
      | error e => exact ⟨_, cycle_illegal hw hb hr hv hh hi⟩
      | ok i =>
        obtain ⟨t, ht⟩ := exec_next_of_decode (s := { s.clearOuts with host := rest }) hw hi
        exact ⟨t, (cycle_accept hw hb hr hv hh hi).trans ht⟩

/-- Under the invariant no step of a busy block stops: the micro-operation it needs is there, and a delay is a timed one. -/
theorem State.Inv.cycle_busy_next {inp : Inputs} {s : State} (h : s.Inv) (hb : s.busy = true) (hr : inp.rst = false) :
    ∃ t, cycle inp s = .next t := by
  cases hd : s.dly with
  | false =>
    obtain ⟨u, hu⟩ := h.exists_current hb
    exact ⟨_, cycle_perform h.config hb hd hr hu⟩
  | true =>
    cases hdone : inp.tmrDone with
    | false => exact ⟨_, cycle_wait h.config hb hd hr hdone⟩
    | true =>
      obtain ⟨u, hu, ht⟩ := h.delay_timed hd
      exact ⟨_, cycle_timerDone h.config hb hd hr hdone hu ht⟩

/-- Settles O12: a reset, an idle and a busy step each give a next state, which has the invariant. -/
theorem stepsNeverStopUnderTheInvariant : Obligations.StepsNeverStopUnderTheInvariant := by
  intro s inp h
  obtain ⟨t, ht⟩ : ∃ t, cycle inp s = .next t := by
    cases hr : inp.rst with
    | true => exact ⟨_, cycle_reset h.config hr⟩
    | false =>
      cases hb : s.busy with
      | false => exact cycle_idle_next h.config hb hr
      | true => exact h.cycle_busy_next hb hr
  exact ⟨t, ht, h.after_cycle ht⟩

/- The lifecycle (R200) -/

/-- A word without INIT's `op` is not INIT's word. -/
theorem ne_initWord_of_not_isInit {cw : CmdWord} (h : isInit cw = false) : cw ≠ 0x000 := fun h0 =>
  Bool.false_ne_true (h.symm.trans (h0 ▸ isInit_initWord))

/-- A word that does not decode is not INIT's word. -/
theorem ne_initWord_of_decode_error {cw : CmdWord} {e : DecodeError} (h : decode cw = .error e) : cw ≠ 0x000 := by
  intro h0
  rw [h0, decode_initWord] at h
  cases h

/-- An idle block starts initializing exactly if INIT's word is presented. -/
theorem cycle_idle_life {inp : Inputs} {s t : State} (hb : s.busy = false) (hr : inp.rst = false)
    (h : cycle inp s = .next t) :
    t.life = if inp.cmdValid = true ∧ s.host.head? = some 0x000 then .initializing else s.life := by
  obtain ⟨-, hreset | hwait | htimer | htimed | huntimed | hidle | hword⟩ := cycle_cases inp s t h
  · simp [hr] at hreset
  · simp [hb] at hwait
  · simp [hb] at htimer
  · simp [hb] at htimed
  · simp [hb] at huntimed
  · obtain ⟨-, -, hv | hh, rfl⟩ := hidle
    · simp [hv]
    · simp [hh]
  · obtain ⟨-, -, hv, cw, rest, hh, hanswer⟩ := hword
    have unchanged (hne : cw ≠ 0x000) (hl : t.life = s.life) :
        t.life = if inp.cmdValid = true ∧ s.host.head? = some 0x000 then .initializing else s.life := by
      rw [hl, if_neg]
      rintro ⟨-, hhead⟩
      exact hne (by simpa [hh] using hhead)
    obtain ⟨e, he, rfl⟩ | ⟨i, hi, hx⟩ := hanswer
    · exact unchanged (ne_initWord_of_decode_error he) rfl
    · obtain ⟨-, ⟨hop, rfl⟩ | ⟨hop, -, -, rfl⟩ | ⟨hop, -, w, -, -, rfl⟩⟩ :=
        exec_idle_cases i cw { s.clearOuts with host := rest } t hb hi hx
      · simp [hv, hh, eq_initWord_of_isInit (legal_of_decode hi) hop]
      · exact unchanged (ne_initWord_of_not_isInit hop) rfl
      · exact unchanged (ne_initWord_of_not_isInit hop) rfl

/-- Settles O30: an idle block is `cycle_idle_life`; a busy one retires as O25 says, and INIT in flight is
Initializing (R39 (c)). -/
theorem lifecycleTransitions : Obligations.LifecycleTransitions := by
  intro inp s t h hc
  refine ⟨fun hr => ?_, fun hr hb => cycle_idle_life hb hr hc, fun hr hb => ?_⟩
  · cases (cycle_reset h.config hr).symm.trans hc
    rfl
  · obtain ⟨-, -, hlife⟩ := advanceAndRetirement inp s t hb hr hc
    rw [hlife]
    simp only [h.initializing, hb, true_and, and_comm]

/- Every command retires (R207) -/

/-- A part of a list takes no more steps than the list. -/
theorem stepsFor_le_of_sublist {us vs : List Uop} (h : us.Sublist vs) : stepsFor us ≤ stepsFor vs :=
  Nat.add_le_add h.length_le h.countP_le

/-- The steps of a byte: 15 micro-operations, 6 of them timed, or 9 with 6 (95_test_vectors.md V21). -/
theorem stepsFor_sendByteUops_le (c : Config) (v : Byte) (m : SendMode) : stepsFor (sendByteUops c v m) ≤ 21 := by
  unfold sendByteUops sendNibbleUops
  cases c.enStrategy <;> simp [stepsFor, List.countP_cons, Uop.timed]

/-- The steps of INIT: 103 micro-operations, 44 of them timed, under DirectToggle (95_test_vectors.md V21). -/
theorem stepsFor_initUops_le (c : Config) : stepsFor (initUops c) ≤ 147 := by
  unfold initUops initPrologue initTable entryUops sendByteUops sendNibbleUops
  cases c.enStrategy <;> simp [stepsFor, List.countP_cons, Uop.timed]

/-- No command takes more steps than INIT, its accept step apart. -/
theorem stepsFor_expand_le (c : Config) (cw : CmdWord) : stepsFor (expand c cw) ≤ 147 := by
  obtain h | ⟨-, h⟩ | ⟨-, h⟩ | ⟨-, v, m, h⟩ := expand_cases c cw <;> rw [h]
  · decide
  · exact stepsFor_initUops_le c
  · have := stepsFor_sendByteUops_le c 0x01 .instruction
    simp only [clearUops, stepsFor, List.length_append, List.countP_append, List.length_singleton,
      List.countP_singleton, Uop.timed, if_true] at this ⊢
    omega
  · exact (stepsFor_sendByteUops_le c v m).trans (by decide)

/-- A run keeps the invariant. -/
theorem State.Inv.after_runWith {ins : List Inputs} {s t : State} (h : s.Inv) (hrun : runWith ins s = .next t) : t.Inv := by
  induction ins generalizing s with
  | nil =>
    cases hrun
    exact h
  | cons i rest ih =>
    obtain ⟨u, hu, hinv⟩ := stepsNeverStopUnderTheInvariant s i h
    rw [runWith, hu] at hrun
    exact ih hinv hrun

/-- With no delay running, a command in flight retires after the steps of the rest of its expansion. -/
theorem State.Inv.retires_of_not_dly {s : State} (h : s.Inv) (hb : s.busy = true) (hd : s.dly = false) :
    ∃ t, runTimed (stepsFor ((expand s.cfg s.cmdr).drop s.upc.toNat)) s = .next t ∧ t.busy = false ∧ t.cmdr = s.cmdr := by
  obtain ⟨-, -, -, hcmdr, -⟩ := State.runUops_frame ((expand s.cfg s.cmdr).drop s.upc.toNat) s
  exact ⟨_, blockPerformsTheRestAndRetires s h.config hb hd (h.in_flight hb).1, State.retire_busy _,
    (State.retire_cmdr _).trans hcmdr⟩

/-- With a delay running, one step ends it; what is left then is the expansion after the micro-operation at `upc`, whose own two
steps cover that step. -/
theorem State.Inv.retires_of_dly {s : State} (h : s.Inv) (hb : s.busy = true) (hd : s.dly = true) :
    ∃ n t, n ≤ stepsFor ((expand s.cfg s.cmdr).drop s.upc.toNat) ∧ runTimed n s = .next t ∧ t.busy = false ∧
      t.cmdr = s.cmdr := by
  obtain ⟨u, hu, ht⟩ := h.delay_timed hd
  have hlt := (h.in_flight hb).1
  have hcur : (expand s.cfg s.cmdr)[s.upc.toNat] = u := (List.getElem?_eq_some_iff.mp hu).2
  rw [List.drop_eq_getElem_cons hlt, hcur, stepsFor_cons, if_pos ht]
  have hstep : cycle .timer s = .next (s.clearOuts.endTimer u).advance := cycle_timerDone h.config hb hd rfl rfl hu ht
  have hone := runTimed_one s _ hstep
  have hcmdr : (s.clearOuts.endTimer u).advance.cmdr = s.cmdr := by simp
  cases hbusy : (s.clearOuts.endTimer u).advance.busy with
  | false => exact ⟨1, _, by omega, hone, hbusy, hcmdr⟩
  | true =>
    obtain ⟨t, hrun, htb, htc⟩ := (h.after_cycle hstep).retires_of_not_dly hbusy (by simp)
    simp only [State.advance_cfg, State.advance_cmdr, State.advance_upc, State.endTimer_cfg, State.endTimer_cmdr,
      State.endTimer_upc, State.clearOuts_cfg, State.clearOuts_cmdr, State.clearOuts_upc, upc_succ s hlt] at hrun
    exact ⟨_, t, by omega, (runTimed_add 1 _ s _ hone).trans hrun, htb, htc.trans hcmdr⟩

/-- Settles O45: the rest of an expansion takes no more steps than INIT's whole list, and the invariant keeps `dly` at 0 in the
idle block. -/
theorem everyCommandRetires : Obligations.EveryCommandRetires := by
  intro s h hb
  obtain ⟨n, t, hn, hrun, htb, htc⟩ : ∃ n t, n ≤ stepsFor ((expand s.cfg s.cmdr).drop s.upc.toNat) ∧
      runTimed n s = .next t ∧ t.busy = false ∧ t.cmdr = s.cmdr := by
    cases hd : s.dly with
    | false =>
      obtain ⟨t, ht⟩ := h.retires_of_not_dly hb hd
      exact ⟨_, t, le_rfl, ht⟩
    | true => exact h.retires_of_dly hb hd
  have hbound := (stepsFor_le_of_sublist (List.drop_sublist s.upc.toNat _)).trans (stepsFor_expand_le s.cfg s.cmdr)
  have hinv : t.Inv := h.after_runWith hrun
  have htd : t.dly = false := by simpa [htb] using hinv.delay_busy
  exact ⟨n, t, hn.trans hbound, hrun, htb, htd, htc, hinv⟩

/- A command before INIT (R194) -/

/-- With `STRICT_INIT` false the block takes commands right after reset. -/
theorem takesCommands_resetOf {c : Config} (hw : c.wf = true) (hs : c.strictInit = false) :
    (State.resetOf c).takesCommands :=
  ⟨hw, rfl, rfl, rfl, fun h => absurd (hs.symm.trans h) Bool.false_ne_true⟩

/-- On undriven pads a byte latches two markers. -/
theorem byteItems_off (b : Bool) (v : Byte) : byteItems Lines.off b v = [.undriven, .undriven] := rfl

/-- The outcome that R194 gives the command `i` from reset. -/
def RunsUndriven (c : Config) (i : Instr) : Prop :=
  ∃ t u, exec i (State.resetOf c) = .next t ∧ t.outs.cmdResp = some .accept ∧ t.busy = true ∧
    runTimed (stepsFor (uopsOf c i)) t = .next u ∧ u.busy = false ∧ u.life = .uninitialized ∧ u.oe = Lines.off ∧
    u.trace = (uopsOf c i).map .op ∧ u.latched = [.undriven, .undriven]

/-- A command from reset that is accepted, sends one byte and retires runs undriven. -/
theorem runsUndriven_of_retiredByte {c : Config} {i : Instr} {cw : CmdWord} {b : Bool} {v : Byte}
    (h : ∃ t, exec i (State.resetOf c) = .next t ∧ t = (State.resetOf c).accepted cw (State.resetOf c).life ∧
      runTimed (stepsFor (uopsOf c i)) t = .next ((State.resetOf c).retiredByte cw (uopsOf c i) b v)) :
    RunsUndriven c i := by
  obtain ⟨_, hexec, rfl, hrun⟩ := h
  exact ⟨_, _, hexec, rfl, rfl, hrun, rfl, rfl, rfl, rfl, byteItems_off b v⟩

/-- Settles O49: the reset state takes commands, so each of the four completes as O37 to O39 say, here with no pin driven. -/
theorem commandBeforeInitRunsUndriven : Obligations.CommandBeforeInitRunsUndriven := by
  intro c i hw hs hi
  have htakes := takesCommands_resetOf hw hs
  obtain rfl | ⟨line, rfl⟩ | ⟨v, rfl⟩ | ⟨v, rfl⟩ := hi
  · exact runsUndriven_of_retiredByte (clearCompletes _ htakes)
  · exact runsUndriven_of_retiredByte (setcurCompletes _ line htakes)
  · obtain ⟨hsendi, -⟩ := byteSendsComplete _ v htakes
    exact runsUndriven_of_retiredByte hsendi
  · obtain ⟨-, hsendd, -⟩ := byteSendsComplete _ v htakes
    exact runsUndriven_of_retiredByte hsendd

end Sys2Proof.Machine
end

section
/-! PROOFS. Reset and hazards (spec/70_reset_and_hazards.md): the reset step (R220), the counts of R236's table, and how a run of a
program ends (R238). The counts of a list are those of its parts added up (`HasCounts.append`, `HasCounts.flatMap`); a run of a
program is a run of its steps as long as work is left and no reset strikes (`runProgram_append`). -/

namespace Sys2Proof.Machine

/- The reset step (R220) -/

/-- Settles O7: `cycle` looks at `rst` before any other port. -/
theorem resetStepFromEveryState : Obligations.ResetStepFromEveryState := fun _ _ _ hw => cycle_reset hw rfl

/- How a run of a program ends (R238) -/

/-- Work is done when no word is left and the block is idle. -/
theorem State.allDone_iff {s : State} : s.allDone = true ↔ s.host = [] ∧ s.busy = false := by
  simp [State.allDone]

/-- A step that is no reset step traces no reset marker. -/
theorem cycle_traces_uops {inp : Inputs} {s t : State} (hr : inp.rst = false) (h : cycle inp s = .next t) :
    ∃ us : List Uop, t.trace = s.trace ++ us.map .op := by
  obtain ⟨hw, hcase⟩ := cycle_cases inp s t h
  cases hb : s.busy with
  | false =>
    obtain ⟨-, hkept⟩ := idleBlockHoldsEverything inp s hw hb hr
    obtain ⟨-, -, htrace, -⟩ := hkept t h
    exact ⟨[], by simp [htrace]⟩
  | true =>
    obtain hreset | hwait | htimer | htimed | huntimed | hidle | hword := hcase
    · simp [hr] at hreset
    · obtain ⟨-, -, -, -, rfl⟩ := hwait
      exact ⟨[], by simp⟩
    · obtain ⟨-, -, -, u, -, -, rfl⟩ := htimer
      exact ⟨[], by simp⟩
    · obtain ⟨-, -, -, u, -, -, rfl⟩ := htimed
      exact ⟨[u], by simp⟩
    · obtain ⟨-, -, -, u, -, -, rfl⟩ := huntimed
      exact ⟨[u], by simp⟩
    · simp [hb] at hidle
    · simp [hb] at hword

/-- A run that is over ends with all work done, and has traced micro-operations only. -/
theorem runProgram_over_ends {ins : List Inputs} {s t : State} (h : runProgram ins s = (.over, t)) :
    t.allDone = true ∧ ∃ us : List Uop, t.trace = s.trace ++ us.map .op := by
  fun_induction runProgram ins s with
  | case1 _ s hdone =>
    cases h
    exact ⟨hdone, [], by simp⟩
  | case4 s _ i rest u hstep hr ih =>
    obtain ⟨hdone, vs, hvs⟩ := ih h
    obtain ⟨us, hus⟩ := cycle_traces_uops (by simpa using hr) hstep
    exact ⟨hdone, us ++ vs, by simp [hvs, hus]⟩
  | case2 | case3 | case5 | case6 => cases h

/-- A run that is aborted ends in a reset step. -/
theorem runProgram_aborted_ends {ins : List Inputs} {s t : State} (h : runProgram ins s = (.aborted, t)) :
    ∃ u : State, u.cfg = s.cfg ∧ t = u.resetStep := by
  fun_induction runProgram ins s with
  | case3 s _ i rest u hstep hr =>
    cases h
    obtain ⟨hw, -⟩ := cycle_cases i s t hstep
    cases (cycle_reset hw hr).symm.trans hstep
    exact ⟨s, rfl, rfl⟩
  | case4 s _ i rest u hstep _ ih =>
    obtain ⟨v, hcfg, ht⟩ := ih h
    exact ⟨v, hcfg.trans (cycle_keeps_cfg hstep), ht⟩
  | case1 | case2 | case5 | case6 => cases h

/-- Work is left in every state that the steps `a` from `s` pass before their last. -/
def WorkLeftBefore (a : List Inputs) (s : State) : Prop :=
  ∀ k < a.length, ∀ v, runWith (a.take k) s = .next v → ¬(v.host = [] ∧ v.busy = false)

/-- Work is left before the first step. -/
theorem WorkLeftBefore.head {i : Inputs} {a : List Inputs} {s : State} (h : WorkLeftBefore (i :: a) s) : s.allDone = false := by
  rw [← Bool.not_eq_true, State.allDone_iff]
  exact h 0 (Nat.succ_pos _) s rfl

/-- Work is left before each step after the first. -/
theorem WorkLeftBefore.tail {i : Inputs} {a : List Inputs} {s t : State} (h : WorkLeftBefore (i :: a) s)
    (hstep : cycle i s = .next t) : WorkLeftBefore a t := fun k hk v hv =>
  h (k + 1) (Nat.succ_lt_succ hk) v (by simpa [runWith, hstep] using hv)

/-- While work is left and no reset strikes, a run of a program is the run of its steps. -/
theorem runProgram_append {a : List Inputs} {s u : State} (b : List Inputs) (hr : ∀ i ∈ a, i.rst = false)
    (hwork : WorkLeftBefore a s) (hrun : runWith a s = .next u) : runProgram (a ++ b) s = runProgram b u := by
  induction a generalizing s with
  | nil =>
    cases hrun
    rfl
  | cons i a ih =>
    obtain ⟨hi, ha⟩ := List.forall_mem_cons.mp hr
    cases hstep : cycle i s with
    | next t =>
      rw [List.cons_append, runProgram_cons i (a ++ b) s t hwork.head hstep, hi]
      exact ih ha (hwork.tail hstep) (by simpa [runWith, hstep] using hrun)
    | fault f => simp [runWith, hstep] at hrun
    | refused r => simp [runWith, hstep] at hrun

/-- Settles O48: how a run ends is said above; when it ends is `runProgram_append`, the rest of the run being empty, begun by a
reset step, or of no effect as all work is done. -/
theorem programRunIsOverOrAborted : Obligations.ProgramRunIsOverOrAborted := by
  intro ins s t
  refine ⟨fun h => ?_, fun h => ?_, fun a b u hr hwork hrun => ⟨fun hdone => ?_, fun hleft => ⟨fun i v hi hstep => ?_, ?_⟩⟩⟩
  · obtain ⟨hdone, htrace⟩ := runProgram_over_ends h
    obtain ⟨hhost, hbusy⟩ := State.allDone_iff.mp hdone
    exact ⟨hhost, hbusy, htrace⟩
  · obtain ⟨u, hcfg, rfl⟩ := runProgram_aborted_ends h
    simp [hcfg, Lines.off]
  · rw [runProgram_append b hr hwork hrun, runProgram_over b u (State.allDone_iff.mpr hdone)]
  · have hnot : u.allDone = false := by rwa [← Bool.not_eq_true, State.allDone_iff]
    rw [runProgram_append (i :: b) hr hwork hrun, runProgram_cons i b u v hnot hstep, if_pos hi]
  · have hstands : runProgram a s = runProgram [] u := by simpa using runProgram_append [] hr hwork hrun
    rw [hstands, runProgram, if_neg (mt State.allDone_iff.mp hleft)]

/- Counts and least durations (R236) -/

/-- The list `us` holds `ops` micro-operations and `pulses` EN pulses, and takes at least `time`. -/
def HasCounts (c : Config) (us : List Uop) (ops pulses time : Nat) : Prop :=
  us.length = ops ∧ enPulses c us = pulses ∧ leastTime us = time

namespace HasCounts

variable {c : Config}

/-- The counts of two lists add up. -/
theorem append {us vs : List Uop} {n n' p p' t t' : Nat} (h : HasCounts c us n p t) (h' : HasCounts c vs n' p' t') :
    HasCounts c (us ++ vs) (n + n') (p + p') (t + t') := by
  obtain ⟨rfl, rfl, rfl⟩ := h
  obtain ⟨rfl, rfl, rfl⟩ := h'
  exact ⟨List.length_append, List.countP_append, by simp [leastTime]⟩

/-- The counts of a list made from parts are those of the parts, added up. -/
theorem flatMap {α : Type} {f : α → List Uop} {n p t : α → Nat} (h : ∀ a, HasCounts c (f a) (n a) (p a) (t a)) (as : List α) :
    HasCounts c (as.flatMap f) (as.map n).sum (as.map p).sum (as.map t).sum := by
  induction as with
  | nil => exact ⟨rfl, rfl, rfl⟩
  | cons a as ih => simpa using (h a).append ih

theorem rs (b : Bool) : HasCounts c [.rs b] 1 0 0 := ⟨rfl, rfl, rfl⟩

theorem delay (t : Nat) : HasCounts c [.delay t] 1 0 t := ⟨rfl, rfl, rfl⟩

theorem prologue : HasCounts c initPrologue 7 0 0 := ⟨rfl, rfl, rfl⟩

/-- A nibble takes `T_NIB` (40_pulse_controller.md R117). -/
theorem sendNibble (n : Nibble) : HasCounts c (sendNibbleUops c n) (nibbleLen c.enStrategy) 1 (tNib c) := by
  refine ⟨length_sendNibbleUops c n, enPulses_sendNibbleUops c n, ?_⟩
  unfold sendNibbleUops
  cases c.enStrategy <;> simp [leastTime, Uop.time, tNib, Nat.add_assoc]

/-- A byte is RS and two nibbles (41_byte_transmission.md R136). -/
theorem sendByte (v : Byte) (m : SendMode) : HasCounts c (sendByteUops c v m) (byteLen c.enStrategy) 2 (2 * tNib c) := by
  have h := ((rs (c := c) (rsLevel m)).append (sendNibble (hiNibble v))).append (sendNibble (loNibble v))
  obtain ⟨-, hpulses, htime⟩ := h
  exact ⟨length_sendByteUops c v m, hpulses, htime.trans (by omega)⟩

/-- The nibbles that a table entry sends. -/
def entryNibbles (k : EntryKind) : Nat :=
  match k with
  | .nib => 1
  | .byte => 2

/-- A table entry is a nibble or a byte, and its delay (42_init_sequencer.md R146). -/
theorem entry (e : InitEntry) : HasCounts c (entryUops c e) (entryLen c.enStrategy e.kind) (entryNibbles e.kind)
    (entryNibbles e.kind * tNib c + delayOf c e.dsel) := by
  unfold entryUops entryLen entryNibbles
  cases e.kind with
  | nib => simpa using (sendNibble (loNibble e.value)).append (delay (delayOf c e.dsel))
  | byte => exact (sendByte e.value .instruction).append (delay (delayOf c e.dsel))

/-- CLEAR is a byte and its delay (43_display_commands.md R168). -/
theorem clear : HasCounts c (clearUops c) (byteLen c.enStrategy + 1) 2 (2 * tNib c + c.tClear) :=
  (sendByte 0x01 .instruction).append (delay c.tClear)

/-- INIT is its prologue and the eight entries of its table (42_init_sequencer.md R153). -/
theorem init : HasCounts c (initUops c) (initStateStart c.enStrategy .done) 12
    (12 * tNib c + 3 * c.tReset + 3 * c.tStep + c.tClear + c.tHome) := by
  obtain ⟨-, hpulses, htime⟩ := prologue.append (flatMap entry (initTable c))
  refine ⟨length_initUops c, hpulses, htime.trans ?_⟩
  simp only [initTable, List.map_cons, List.map_nil, List.sum_cons, List.sum_nil, entryNibbles, delayOf]
  omega

/-- WRLINE is a byte for its line and one for each character (44_text_writer.md R180). -/
theorem wrline (text : List Nat) (line : Nat) : HasCounts c (wrlineUops c text line)
    (byteLen c.enStrategy * (text.length + 1)) (2 * (text.length + 1)) (2 * (text.length + 1) * tNib c) := by
  have h := (sendByte (c := c) (cursorByte (BitVec.ofNat 1 line)) .instruction).append
    (flatMap (fun ch => sendByte (charCode ch) .data) text)
  simp only [List.map_const', List.sum_replicate, smul_eq_mul] at h
  obtain ⟨hlen, hpulses, htime⟩ := h
  exact ⟨hlen.trans (by ring), hpulses.trans (by ring), htime.trans (by ring)⟩

end HasCounts

/-- The micro-operations of a nibble, by R236's columns. -/
theorem nibbleLen_eq (st : EnStrategy) : nibbleLen st = if decide (st = .directToggle) then 7 else 4 := by
  cases st <;> rfl

/-- The micro-operations of a byte, by R236's columns. -/
theorem byteLen_eq (st : EnStrategy) : byteLen st = if decide (st = .directToggle) then 15 else 9 := by
  cases st <;> rfl

/-- The micro-operations of CLEAR, by R236's columns. -/
theorem byteLen_succ_eq (st : EnStrategy) : byteLen st + 1 = if decide (st = .directToggle) then 16 else 10 := by
  cases st <;> rfl

/-- The micro-operations of INIT, by R236's columns. -/
theorem initStateStart_done_eq (st : EnStrategy) :
    initStateStart st .done = if decide (st = .directToggle) then 103 else 67 := by
  cases st <;> rfl

/-- Settles O59: each row of R236's table is the counts of that command's list. -/
theorem countsAndLeastDurations : Obligations.CountsAndLeastDurations := by
  intro c n v line text l direct
  rw [← nibbleLen_eq, ← byteLen_eq, ← byteLen_succ_eq, ← initStateStart_done_eq]
  exact ⟨HasCounts.sendNibble n, HasCounts.sendByte v .instruction, HasCounts.sendByte v .data,
    HasCounts.sendByte (cursorByte line) .instruction, HasCounts.clear, HasCounts.init, HasCounts.wrline text l⟩

end Sys2Proof.Machine
end
